-- ==== Sys2Proof/Word.lean ====
section
/-! DEFINITION. The word types of GO9800-CORE (spec/00_scope.md R6, R7): bit 0 is the least significant bit everywhere. -/

namespace Sys2Proof

/-- A 16-bit register, bus or storage-cell value (R6: `W_A` to `W_AUX`, `CELL_WIDTH`). -/
abbrev Word := BitVec 16

/-- A raw control word (R90: `CW_WIDTH` = 28). -/
abbrev ControlWord := BitVec 28

/-- A control-store address (R20). -/
abbrev CsAddr := BitVec 8

/-- A select code (R9, R11: 4 bits; 0 addresses no device). -/
abbrev SelectCode := BitVec 4

end Sys2Proof
end

