-- ==== Sys2Proof/Syntax.lean ====
section
/-! DEFINITION. The instructions of GO9800-CORE: one constructor of `Instr` per row of spec/opcode_table.json. -/

namespace Sys2Proof

/-- S-ops (spec/41_bus_operations.md R143 to R146; codes spec/30_encoding.md R97). -/
inductive SOp where
  | zero | m | t | acc
deriving DecidableEq, Repr

/-- R-ops: the eight raw ones and the derived `R_UNITX`, `R_IOS`, `R_E` (R147 to R154, R160 to R162). -/
inductive ROp where
  | zero | unit | unitx | p | ios | tre | e | q | rdm | wtm | acc
deriving DecidableEq, Repr

/-- X-ops (R155 to R159, R164 to R166). -/
inductive XOp where
  | none | p | q | acc | e | qb | dec | cab
deriving DecidableEq, Repr

/-- A-ops (spec/43_alu_bcd.md R240 to R247). -/
inductive AOp where
  | zero | and | ior | xor | add | sub | iorc | iors
deriving DecidableEq, Repr

/-- The decoded entry of the control store (R96): the four operation references after the substitutions of R100, the flags in
decoded polarity, the 3-bit ALU opcode `A`, the numeric fields and the precomputed `skip` flag. -/
structure Entry where
  sop : SOp
  rop : ROp
  xop : XOp
  aop : AOp
  alu : BitVec 3
  ttt : Bool
  ttm : Bool
  xtr : Bool
  brq : Bool
  iqn : Bool
  sc : BitVec 4
  pm : BitVec 4
  sm : BitVec 4
  skip : Bool
deriving DecidableEq, Repr

/-- The I/O operation named by the four-bit field of `Q` (R98). The two `IO_NOP` rows of the table keep the low bits of
their code. -/
inductive IoOp where
  | stf | sfc | stc | clc | sfs | li8 | li16 | ot8 | ot16 | eow
  | nopLow (c : BitVec 1)
  | nopHigh (c : BitVec 2)
deriving DecidableEq, Repr

/-- A dispatched I/O operation (R98): the operation, the five-bit select-code field, the hold/clear bit. -/
structure IoWord where
  op : IoOp
  sc : BitVec 5
  hc : Bool
deriving DecidableEq, Repr

/-- One constructor per row of spec/opcode_table.json. The rows of the bus operations and flags are the parts a control word is
made of (R140, R172); the row MI is the whole control word; the IO rows are read from the qualifier register by the I/O-start
operation (R98). DESIGN CHOICE, log entry 1. -/
inductive Instr where
  | sZero | sM | sT | sAcc
  | rZero | rUnit | rUnitx | rP | rIos | rTre | rE | rQ | rRdm | rWtm | rAcc
  | xNone | xP | xQ | xAcc | xE | xQb | xDec | xCab
  | aZero | aAnd | aIor | aXor | aAdd | aSub | aIorc | aIors
  | ttt | ttm | xtr | brq | iqn
  | mi (e : Entry)
  | ioStf (sc : BitVec 5) (hc : Bool)
  | ioSfc (sc : BitVec 5) (hc : Bool)
  | ioStc (sc : BitVec 5) (hc : Bool)
  | ioClc (sc : BitVec 5) (hc : Bool)
  | ioSfs (sc : BitVec 5) (hc : Bool)
  | ioLi8 (sc : BitVec 5) (hc : Bool)
  | ioLi16 (sc : BitVec 5) (hc : Bool)
  | ioOt8 (sc : BitVec 5) (hc : Bool)
  | ioOt16 (sc : BitVec 5) (hc : Bool)
  | ioEow (sc : BitVec 5) (hc : Bool)
  | ioNopLow (c : BitVec 1) (sc : BitVec 5) (hc : Bool)
  | ioNopHigh (c : BitVec 2) (sc : BitVec 5) (hc : Bool)
  | ioClf
  | ioAck
deriving DecidableEq, Repr

end Sys2Proof
end

