-- ==== Sys2Proof/Config.lean ====
section
/-! DEFINITION. What an implementation of GO9800-CORE fixes (spec/00_scope.md R6): the register widths and the other parameters a
configuration may override, as plain data; and the parameters the spec leaves OPEN, as constants without a body. -/

namespace Sys2Proof

/-! ## Register widths (R6, D4) -/

/-- `W_A` to `W_AUX` and `W_E`: the widths the registers are made with. A register keeps the width it was made with (R120), so a machine
of other widths is a state whose registers were made with them. -/
structure Widths where
  a : Nat
  b : Nat
  t : Nat
  m : Nat
  p : Nat
  q : Nat
  e : Nat
  ior : Nat
  aux : Nat
deriving DecidableEq, Repr

/-- The spec's default widths (R6, D4). -/
def defaultWidths : Widths :=
  { a := 16, b := 16, t := 16, m := 16, p := 16, q := 16, e := 4, ior := 16, aux := 16 }

/-! ## Parameters as data -/

/-- The nine bit registers (R21, R23 to R27, R44, R45). -/
inductive RegName where
  | A | B | T | M | P | Q | E | IOR | AUX
deriving DecidableEq, Repr

/-- The width of a register by name. -/
def Widths.of (w : Widths) : RegName → Nat
  | .A => w.a
  | .B => w.b
  | .T => w.t
  | .M => w.m
  | .P => w.p
  | .Q => w.q
  | .E => w.e
  | .IOR => w.ior
  | .AUX => w.aux

/-- `CARRY_COMMIT` (R208, D8): which carry the terminating pass commits. -/
inductive CarryCommit where
  | working
  | tentative
deriving DecidableEq, Repr

/-- `OPTABLE` (R97, D5): the operation object each code of a control word selects. A code is an index, so every code is assigned; a
table with a gap is refused when it is loaded (`OpSource`, U4). In the default table the derived operations come by R100 alone; a
supplied table that gives one of them to a raw R code is taken (DESIGN CHOICE, log entry 29). -/
structure OpTable where
  s : Vector SOp 4
  r : Vector ROp 8
  x : Vector XOp 8
  a : Vector AOp 8
deriving DecidableEq, Repr

/-- A boolean condition on the state (R203, R204): what `QUALTAB` lists, and what each bit of `QSEL` reads. One bit of the state, the
service-request predicate, or a boolean function of such. -/
inductive Qualifier where
  /-- Bit `i` of `CSA`. -/
  | csa (i : Nat)
  /-- Bit `i` of a register. -/
  | reg (n : RegName) (i : Nat)
  /-- Bit `i` of the accumulator `AB` selects. -/
  | acc (i : Nat)
  /-- `Q[QB_POS]`. -/
  | qb
  | bc
  | dc
  | ab
  | rdy
  | inh
  | ena
  | bsy
  | ssf
  | stp
  /-- Bit `i` of the strobe vector. -/
  | stb (i : Nat)
  /-- Bit `i` of the addressed-device field. -/
  | sel (i : Nat)
  | serviceRequested
  | const (v : Bool)
  | not (x : Qualifier)
  | and (x y : Qualifier)
  | or (x y : Qualifier)
deriving DecidableEq, Repr

/-- The positions of the fields of `Q`: `Q_SC_LO`, `Q_IOOP_LO`, `Q_HC`, `Q_IOE`, `QB_POS` (R6, R26, D13). -/
structure QLayout where
  scLo : Nat
  ioopLo : Nat
  hc : Nat
  ioe : Nat
  qb : Nat
deriving DecidableEq, Repr

/-- The output class of a select code (R278). -/
inductive OutClass where
  | internal
  | auxbuf
  | std
deriving DecidableEq, Repr

/-- An entry of `MODEL_QUIRKS` (R279): the spec describes none, so there is none to list. -/
inductive Quirk where
deriving DecidableEq, Repr

/-- The parameters of R6 that a configuration supplies as data and that no step changes, beside the widths, which the registers hold. The
spec's defaults are `Machine.defaultParams` (log entry 6). -/
structure Params where
  opTable : OpTable
  /-- `ALU_TABLE`, each entry `{cupd, ct, t}` in its low three bits (R223). -/
  aluTable : Vector (BitVec 8) 256
  /-- `BCD_TABLE`, each entry `{dc, nib'}` in its low five bits (R232). -/
  bcdTable : Vector (BitVec 8) 256
  qLayout : QLayout
  /-- `QSEL` (R203, D10): the four selecting bits, the least significant first. -/
  qsel : Vector Qualifier 4
  /-- `QUALTAB` (R204, D11). -/
  qualtab : Vector Qualifier 16
  carryCommit : CarryCommit
  /-- `EXPOSE_STROBES` (R257, D24). -/
  exposeStrobes : Bool
  /-- `ABSENT_READY` (R253, C2). -/
  absentReady : Bool
  /-- `OUT_CLASS` (R278, D22), one class per select code; `SC_AUX` is the code `Machine.outClasses` gives the class AUXBUF. -/
  outClass : Vector OutClass 16
  /-- `MODEL_QUIRKS` (R279, D43). -/
  modelQuirks : List Quirk
deriving DecidableEq, Repr

/-! ## Parameters without a value -/

/-- `CS_ROM` (R6, D40, U14): the contents of the control store. OPEN, no default: a free value, which nothing here can
evaluate. DESIGN CHOICE, log entry 4. -/
opaque Config.csRom : CsAddr → ControlWord

/-- The answer `(busy, data)` of the device to the `n`-th device call of the machine's life (R254, U7: any value per call),
used when State schedules no answer. A free value. DESIGN CHOICE, log entry 8. -/
opaque Config.deviceAnswer : Nat → Bool × Word

/-- `CS_BOUNDARY` (R316): the address whose fetch tells the external tracer that one full machine instruction is complete.
It has no effect on state (R214). -/
def Config.csBoundary : CsAddr := 0x6E

end Sys2Proof
end

