-- ==== Sys2Proof/Machine/Skip.lean ====
section
/-! DEFINITION. The constants of the operation objects: shift-skip eligibility, the ALU opcode; and the decoded flag `skip`
(spec/41_bus_operations.md R140, R163, spec/43_alu_bcd.md R229). -/

namespace Sys2Proof

/-- `skipOK` of each S-op (R143 to R146). -/
def SOp.skipOK : SOp → Bool
  | .zero => true
  | .m | .t | .acc => false

/-- `skipOK` of each R-op (R147 to R154, R160 to R162). -/
def ROp.skipOK : ROp → Bool
  | .zero | .wtm => true
  | .unit | .unitx | .p | .ios | .tre | .e | .q | .rdm | .acc => false

/-- `skipOK` of each X-op (R155 to R159, R164 to R166). -/
def XOp.skipOK : XOp → Bool
  | .none | .qb | .cab => true
  | .p | .q | .acc | .e | .dec => false

/-- The 3-bit ALU opcode `A` of an A-op in the default table (R97), which indexes `ALU_TABLE` (R223). -/
def AOp.code : AOp → BitVec 3
  | .zero => 0
  | .and => 1
  | .ior => 2
  | .xor => 3
  | .add => 4
  | .sub => 5
  | .iorc => 6
  | .iors => 7

/-- `skipOK` of each A-op, a constant of the operation whatever `ALU_TABLE` holds (R140, R229). Where a supplied table sets `cupd` for
the opcode of one of the first four, the spec does not say whether the table is refused or the operation loses its eligibility: in the
model the operation keeps it, and `construct` refuses the table by `skipCheck` (DESIGN CHOICE, log entry 24). -/
def AOp.skipOK : AOp → Bool
  | .zero | .and | .ior | .xor => true
  | .add | .sub | .iorc | .iors => false

/-- The flag `skip` of an entry, from its operations after substitution and its raw flags (R163). -/
def Entry.skipOf (e : Entry) : Bool :=
  !e.ttt && !e.ttm && !e.xtr && e.sop.skipOK && e.rop.skipOK && e.xop.skipOK && e.aop.skipOK

end Sys2Proof
end

