-- ==== Sys2Proof/WellFormed.lean ====
section
/-! DEFINITION. Which decoded entries are images of a control word: the agreement of the derived operations with the flags and
of the ALU opcode and the `skip` flag with the operations (spec/30_encoding.md R94, R97, R100, spec/41_bus_operations.md R163). -/

namespace Sys2Proof

/-- `R_UNIT` and `R_P` are selected only with transfer-enable clear; the derived `R_UNITX` and `R_IOS` only with it set
(R100, R150, R151, R160, R161). -/
def Entry.transferAgrees (e : Entry) : Bool :=
  match e.rop with
  | .unit | .p => !e.xtr
  | .unitx | .ios => e.xtr
  | .zero | .tre | .e | .q | .rdm | .wtm | .acc => true

/-- `R_E` comes only with `X_NONE`, and `R_TRE` never with `X_E` (R100, R162). -/
def Entry.throughEAgrees (e : Entry) : Bool :=
  match e.rop with
  | .e => e.xop == .none
  | .tre => e.xop != .e
  | .zero | .unit | .unitx | .p | .ios | .q | .rdm | .wtm | .acc => true

/-- An entry that some control word decodes to under the default table. -/
def Entry.wf (e : Entry) : Bool :=
  e.transferAgrees && e.throughEAgrees && (e.alu == e.aop.code) && (e.skip == e.skipOf)

/-- Well-formed instructions. Every operand of the other constructors fills its field. -/
def Instr.wf : Instr → Bool
  | .mi e => e.wf
  | .sZero | .sM | .sT | .sAcc => true
  | .rZero | .rUnit | .rUnitx | .rP | .rIos | .rTre | .rE | .rQ | .rRdm | .rWtm | .rAcc => true
  | .xNone | .xP | .xQ | .xAcc | .xE | .xQb | .xDec | .xCab => true
  | .aZero | .aAnd | .aIor | .aXor | .aAdd | .aSub | .aIorc | .aIors => true
  | .ttt | .ttm | .xtr | .brq | .iqn => true
  | .ioStf _ _ | .ioSfc _ _ | .ioStc _ _ | .ioClc _ _ | .ioSfs _ _ => true
  | .ioLi8 _ _ | .ioLi16 _ _ | .ioOt8 _ _ | .ioOt16 _ _ | .ioEow _ _ => true
  | .ioNopLow _ _ _ | .ioNopHigh _ _ _ | .ioClf | .ioAck => true

end Sys2Proof
end

