-- ==== Sys2Proof/Decode.lean ====
section
/-! DEFINITION. Decoding and encoding of the two formats: MI, the 28-bit control word (spec/30_encoding.md R91 to R101), and
IOQ, the I/O operation held in the qualifier register (R98, spec/44_io_arbiter.md R260). -/

namespace Sys2Proof

/-! ## Permutations (R8, R92, R101) -/

/-- `rev_2`. -/
def rev2 (v : BitVec 2) : BitVec 2 :=
  BitVec.ofBool (v.getLsbD 0) ++ BitVec.ofBool (v.getLsbD 1)

/-- `rev_3`. -/
def rev3 (v : BitVec 3) : BitVec 3 :=
  BitVec.ofBool (v.getLsbD 0) ++ BitVec.ofBool (v.getLsbD 1) ++ BitVec.ofBool (v.getLsbD 2)

/-- `rotl1_3` (D3): `{v[1:0], v[2]}`. -/
def rotl13 (v : BitVec 3) : BitVec 3 :=
  v.extractLsb' 0 2 ++ BitVec.ofBool (v.getLsbD 2)

/-- `rotl1_4` (D3): `{v[2:0], v[3]}`. -/
def rotl14 (v : BitVec 4) : BitVec 4 :=
  v.extractLsb' 0 3 ++ BitVec.ofBool (v.getLsbD 3)

/-- `rotr1_3` (R101): `{v[0], v[2:1]}`. -/
def rotr13 (v : BitVec 3) : BitVec 3 :=
  BitVec.ofBool (v.getLsbD 0) ++ v.extractLsb' 1 2

/-- `rotr1_4` (R101): `{v[0], v[3:1]}`. -/
def rotr14 (v : BitVec 4) : BitVec 4 :=
  BitVec.ofBool (v.getLsbD 0) ++ v.extractLsb' 1 3

/-! ## Code maps (R97, R98) -/

def SOp.ofCode (c : BitVec 2) : SOp :=
  match c.toNat with
  | 0 => .zero
  | 1 => .m
  | 2 => .t
  | _ => .acc

def SOp.code : SOp → BitVec 2
  | .zero => 0
  | .m => 1
  | .t => 2
  | .acc => 3

/-- The raw R-op of a code; the derived ones come by `substitute`. -/
def ROp.ofCode (c : BitVec 3) : ROp :=
  match c.toNat with
  | 0 => .zero
  | 1 => .unit
  | 2 => .p
  | 3 => .tre
  | 4 => .q
  | 5 => .rdm
  | 6 => .wtm
  | _ => .acc

/-- The raw R code a control word carries for an R-op; a derived one carries the code it was made from (R100). -/
def ROp.code : ROp → BitVec 3
  | .zero => 0
  | .unit | .unitx => 1
  | .p | .ios => 2
  | .tre | .e => 3
  | .q => 4
  | .rdm => 5
  | .wtm => 6
  | .acc => 7

def XOp.ofCode (c : BitVec 3) : XOp :=
  match c.toNat with
  | 0 => .none
  | 1 => .p
  | 2 => .q
  | 3 => .acc
  | 4 => .e
  | 5 => .qb
  | 6 => .dec
  | _ => .cab

def XOp.code : XOp → BitVec 3
  | .none => 0
  | .p => 1
  | .q => 2
  | .acc => 3
  | .e => 4
  | .qb => 5
  | .dec => 6
  | .cab => 7

def AOp.ofCode (c : BitVec 3) : AOp :=
  match c.toNat with
  | 0 => .zero
  | 1 => .and
  | 2 => .ior
  | 3 => .xor
  | 4 => .add
  | 5 => .sub
  | 6 => .iorc
  | _ => .iors

/-- The spec's default `OPTABLE` (R97, D5). -/
def defaultOps : OpTable :=
  { s := ⟨⟨(List.range 4).map fun i => SOp.ofCode (BitVec.ofNat 2 i)⟩, rfl⟩
    r := ⟨⟨(List.range 8).map fun i => ROp.ofCode (BitVec.ofNat 3 i)⟩, rfl⟩
    x := ⟨⟨(List.range 8).map fun i => XOp.ofCode (BitVec.ofNat 3 i)⟩, rfl⟩
    a := ⟨⟨(List.range 8).map fun i => AOp.ofCode (BitVec.ofNat 3 i)⟩, rfl⟩ }

/-- The operations of a code (R97). -/
def OpTable.sop (t : OpTable) (c : BitVec 2) : SOp :=
  t.s[c.toNat]

def OpTable.rop (t : OpTable) (c : BitVec 3) : ROp :=
  t.r[c.toNat]

def OpTable.xop (t : OpTable) (c : BitVec 3) : XOp :=
  t.x[c.toNat]

def OpTable.aop (t : OpTable) (c : BitVec 3) : AOp :=
  t.a[c.toNat]

/-- The derived operations (R100), tested in the order of its table, on the operations the codes select (log entry 6). -/
def substitute (xtr : Bool) (r : ROp) (x : XOp) : ROp × XOp :=
  if xtr && r == .unit then (.unitx, x)
  else if xtr && r == .p then (.ios, x)
  else if r == .tre && x == .e then (.e, .none)
  else (r, x)

/-! ## Format MI -/

/-- The decoded entry of a control word (R91 to R96, R100) under an `OPTABLE`. Total: no word is illegal (R99). -/
def decodeEntryBy (ops : OpTable) (w : ControlWord) : Entry :=
  let xtr := !w.getLsbD 12
  let rx := substitute xtr (ops.rop (rev3 (w.extractLsb' 8 3))) (ops.xop (rotl13 (w.extractLsb' 5 3)))
  let alu := BitVec.ofBool (w.getLsbD 4) ++ rev2 (w.extractLsb' 13 2)
  let e : Entry :=
    { sop := ops.sop (rev2 (w.extractLsb' 0 2))
      rop := rx.1
      xop := rx.2
      aop := ops.aop alu
      alu := alu
      ttt := !w.getLsbD 2
      ttm := !w.getLsbD 3
      xtr := xtr
      brq := w.getLsbD 11
      iqn := w.getLsbD 15
      sc := w.extractLsb' 16 4
      pm := w.extractLsb' 24 4
      sm := rotl14 (w.extractLsb' 20 4)
      skip := false }
  { e with skip := e.skipOf }

/-- The decoded entry under the default `OPTABLE`. -/
def decodeEntry (w : ControlWord) : Entry :=
  decodeEntryBy defaultOps w

/-- The instruction of a control word: always the row MI, since every word is a combination of the operations (R172). -/
def decodeWord (w : ControlWord) : Instr :=
  .mi (decodeEntry w)

/-! ## Format IOQ -/

/-- The operation of an `IOOP` code (R98, D19). -/
def IoOp.ofCode (c : BitVec 4) : IoOp :=
  match c.toNat with
  | 0 => .stf
  | 1 => .sfc
  | 2 => .stc
  | 3 => .clc
  | 4 => .sfs
  | 5 => .li8
  | 6 => .li16
  | 7 => .ot8
  | 8 => .ot16
  | 9 => .eow
  | 10 | 11 => .nopLow (c.extractLsb' 0 1)
  | _ => .nopHigh (c.extractLsb' 0 2)

def IoOp.code : IoOp → BitVec 4
  | .stf => 0
  | .sfc => 1
  | .stc => 2
  | .clc => 3
  | .sfs => 4
  | .li8 => 5
  | .li16 => 6
  | .ot8 => 7
  | .ot16 => 8
  | .eow => 9
  | .nopLow c => 5#3 ++ c
  | .nopHigh c => 3#2 ++ c

/-- The spec's default positions of the fields of `Q` (R26, D13). -/
def defaultQLayout : QLayout :=
  { scLo := 0, ioopLo := 5, hc := 9, ioe := 10, qb := 6 }

/-- The I/O operation in a value of `Q` with its fields at these positions (R98, R259, R260): none where `Q.IOE` is clear. Bits
outside the fields are not looked at. -/
def decodeIoqBy {w : Nat} (l : QLayout) (q : BitVec w) : Option IoWord :=
  if q.getLsbD l.ioe then
    some { op := IoOp.ofCode (q.extractLsb' l.ioopLo 4), sc := q.extractLsb' l.scLo 5, hc := q.getLsbD l.hc }
  else none

/-- The I/O operation in a value of `Q` with the default positions. -/
def decodeIoq (q : Word) : Option IoWord :=
  decodeIoqBy defaultQLayout q

/-- The row of a dispatched I/O operation. -/
def IoWord.toInstr (i : IoWord) : Instr :=
  match i.op with
  | .stf => .ioStf i.sc i.hc
  | .sfc => .ioSfc i.sc i.hc
  | .stc => .ioStc i.sc i.hc
  | .clc => .ioClc i.sc i.hc
  | .sfs => .ioSfs i.sc i.hc
  | .li8 => .ioLi8 i.sc i.hc
  | .li16 => .ioLi16 i.sc i.hc
  | .ot8 => .ioOt8 i.sc i.hc
  | .ot16 => .ioOt16 i.sc i.hc
  | .eow => .ioEow i.sc i.hc
  | .nopLow c => .ioNopLow c i.sc i.hc
  | .nopHigh c => .ioNopHigh c i.sc i.hc

/-- The instruction a value of `Q` stands for: the row IO_ACK where `Q.IOE` is clear. -/
def decodeQ (q : Word) : Instr :=
  match decodeIoq q with
  | some i => i.toInstr
  | none => .ioAck

/-! ## Words of any width -/

/-- Why bits are no instruction. No word of a format is refused (R99): only bits that are no word of either format are. -/
inductive DecodeRefusal where
  /-- The bits have a width that is neither format's. -/
  | noSuchFormat
  /-- A bit above the format's width is set. -/
  | tooWide
deriving DecidableEq, Repr

/-- Format MI has 28 bits (four whole bytes), format IOQ sixteen. -/
def decodeRaw (nbits w : Nat) : Except DecodeRefusal Instr :=
  if nbits = 28 ∨ nbits = 32 then
    if w < 2 ^ 28 then .ok (decodeWord (BitVec.ofNat 28 w)) else .error .tooWide
  else if nbits = 16 then
    if w < 2 ^ 16 then .ok (decodeQ (BitVec.ofNat 16 w)) else .error .tooWide
  else .error .noSuchFormat

/-- The instruction the decoder reads from bits numbered as spec/opcode_table.json numbers them. -/
def decodeTableWord (nbits w : Nat) : Option Instr :=
  match decodeRaw nbits w with
  | .ok i => some i
  | .error _ => none

/-! ## Encoding (R101) -/

/-- The raw control word of an entry under the default `OPTABLE` (R101). -/
def encodeEntry (e : Entry) : ControlWord :=
  e.pm ++ rotr14 e.sm ++ e.sc ++ BitVec.ofBool e.iqn ++ rev2 (e.alu.extractLsb' 0 2) ++ BitVec.ofBool (!e.xtr)
    ++ BitVec.ofBool e.brq ++ rev3 e.rop.code ++ rotr13 (if e.rop = .e then XOp.e.code else e.xop.code)
    ++ BitVec.ofBool (e.alu.getLsbD 2) ++ BitVec.ofBool (!e.ttm) ++ BitVec.ofBool (!e.ttt) ++ rev2 e.sop.code

/-- The value of `Q` that holds an I/O operation (R98), its unused bits 15 to 11 zero. -/
def encodeIo (i : IoWord) : Word :=
  0#5 ++ 1#1 ++ BitVec.ofBool i.hc ++ i.op.code ++ i.sc

/-- The words of an instruction: a control word or a value of `Q`. -/
inductive Code where
  | mi (w : ControlWord)
  | ioq (q : Word)
deriving DecidableEq, Repr

/-- What a code decodes to. -/
def decodeCode : Code → Instr
  | .mi w => decodeWord w
  | .ioq q => decodeQ q

/-- The bits of a row that is a part of a word (an operation, a flag, the trailing clear-flag): its mask and match in
spec/opcode_table.json; none for a row that is a word of its own. -/
def Instr.part : Instr → Option (Nat × Nat)
  | .sZero => some (0x3, 0x0)
  | .sM => some (0x3, 0x2)
  | .sT => some (0x3, 0x1)
  | .sAcc => some (0x3, 0x3)
  | .rZero => some (0x700, 0x0)
  | .rUnit => some (0x1700, 0x1400)
  | .rUnitx => some (0x1700, 0x400)
  | .rP => some (0x1700, 0x1200)
  | .rIos => some (0x1700, 0x200)
  | .rTre => some (0x700, 0x600)
  | .rE => some (0x7E0, 0x640)
  | .rQ => some (0x700, 0x100)
  | .rRdm => some (0x700, 0x500)
  | .rWtm => some (0x700, 0x300)
  | .rAcc => some (0x700, 0x700)
  | .xNone => some (0xE0, 0x0)
  | .xP => some (0xE0, 0x80)
  | .xQ => some (0xE0, 0x20)
  | .xAcc => some (0xE0, 0xA0)
  | .xE => some (0xE0, 0x40)
  | .xQb => some (0xE0, 0xC0)
  | .xDec => some (0xE0, 0x60)
  | .xCab => some (0xE0, 0xE0)
  | .aZero => some (0x6010, 0x0)
  | .aAnd => some (0x6010, 0x4000)
  | .aIor => some (0x6010, 0x2000)
  | .aXor => some (0x6010, 0x6000)
  | .aAdd => some (0x6010, 0x10)
  | .aSub => some (0x6010, 0x4010)
  | .aIorc => some (0x6010, 0x2010)
  | .aIors => some (0x6010, 0x6010)
  | .ttt => some (0x4, 0x0)
  | .ttm => some (0x8, 0x0)
  | .xtr => some (0x1000, 0x0)
  | .brq => some (0x800, 0x800)
  | .iqn => some (0x8000, 0x8000)
  | .ioClf => some (0x600, 0x600)
  | .mi _ | .ioStf _ _ | .ioSfc _ _ | .ioStc _ _ | .ioClc _ _ | .ioSfs _ _ | .ioLi8 _ _ | .ioLi16 _ _ => none
  | .ioOt8 _ _ | .ioOt16 _ _ | .ioEow _ _ | .ioNopLow _ _ _ | .ioNopHigh _ _ _ | .ioAck => none

/-- Whether the bits of a part stand in a control word. -/
def Instr.standsIn (i : Instr) (w : ControlWord) : Bool :=
  match i.part with
  | some (mask, val) => w &&& BitVec.ofNat 28 mask == BitVec.ofNat 28 val
  | none => false

/-- Whether a decoded entry selects a part: the operation or the flag is the one the engine runs for it (R96). -/
def Entry.selects (e : Entry) : Instr → Bool
  | .sZero => e.sop == .zero
  | .sM => e.sop == .m
  | .sT => e.sop == .t
  | .sAcc => e.sop == .acc
  | .rZero => e.rop == .zero
  | .rUnit => e.rop == .unit
  | .rUnitx => e.rop == .unitx
  | .rP => e.rop == .p
  | .rIos => e.rop == .ios
  | .rTre => e.rop == .tre
  | .rE => e.rop == .e
  | .rQ => e.rop == .q
  | .rRdm => e.rop == .rdm
  | .rWtm => e.rop == .wtm
  | .rAcc => e.rop == .acc
  | .xNone => e.xop == .none
  | .xP => e.xop == .p
  | .xQ => e.xop == .q
  | .xAcc => e.xop == .acc
  | .xE => e.xop == .e
  | .xQb => e.xop == .qb
  | .xDec => e.xop == .dec
  | .xCab => e.xop == .cab
  | .aZero => e.aop == .zero
  | .aAnd => e.aop == .and
  | .aIor => e.aop == .ior
  | .aXor => e.aop == .xor
  | .aAdd => e.aop == .add
  | .aSub => e.aop == .sub
  | .aIorc => e.aop == .iorc
  | .aIors => e.aop == .iors
  | .ttt => e.ttt
  | .ttm => e.ttm
  | .xtr => e.xtr
  | .brq => e.brq
  | .iqn => e.iqn
  | .mi _ | .ioStf _ _ | .ioSfc _ _ | .ioStc _ _ | .ioClc _ _ | .ioSfs _ _ | .ioLi8 _ _ | .ioLi16 _ _ => false
  | .ioOt8 _ _ | .ioOt16 _ _ | .ioEow _ _ | .ioNopLow _ _ _ | .ioNopHigh _ _ _ | .ioClf | .ioAck => false

/-- The word of an instruction. A part is written alone as its row's match, every bit it does not fix zero. -/
def encode (i : Instr) : Code :=
  match i with
  | .mi e => .mi (encodeEntry e)
  | .ioStf sc hc => .ioq (encodeIo { op := .stf, sc := sc, hc := hc })
  | .ioSfc sc hc => .ioq (encodeIo { op := .sfc, sc := sc, hc := hc })
  | .ioStc sc hc => .ioq (encodeIo { op := .stc, sc := sc, hc := hc })
  | .ioClc sc hc => .ioq (encodeIo { op := .clc, sc := sc, hc := hc })
  | .ioSfs sc hc => .ioq (encodeIo { op := .sfs, sc := sc, hc := hc })
  | .ioLi8 sc hc => .ioq (encodeIo { op := .li8, sc := sc, hc := hc })
  | .ioLi16 sc hc => .ioq (encodeIo { op := .li16, sc := sc, hc := hc })
  | .ioOt8 sc hc => .ioq (encodeIo { op := .ot8, sc := sc, hc := hc })
  | .ioOt16 sc hc => .ioq (encodeIo { op := .ot16, sc := sc, hc := hc })
  | .ioEow sc hc => .ioq (encodeIo { op := .eow, sc := sc, hc := hc })
  | .ioNopLow c sc hc => .ioq (encodeIo { op := .nopLow c, sc := sc, hc := hc })
  | .ioNopHigh c sc hc => .ioq (encodeIo { op := .nopHigh c, sc := sc, hc := hc })
  | .ioAck => .ioq 0
  | .ioClf => .ioq 0x600
  | .sZero | .sM | .sT | .sAcc | .rZero | .rUnit | .rUnitx | .rP | .rIos | .rTre | .rE | .rQ | .rRdm | .rWtm | .rAcc =>
    .mi (BitVec.ofNat 28 ((i.part.getD (0, 0)).2))
  | .xNone | .xP | .xQ | .xAcc | .xE | .xQb | .xDec | .xCab | .ttt | .ttm | .xtr | .brq | .iqn =>
    .mi (BitVec.ofNat 28 ((i.part.getD (0, 0)).2))
  | .aZero | .aAnd | .aIor | .aXor | .aAdd | .aSub | .aIorc | .aIors =>
    .mi (BitVec.ofNat 28 ((i.part.getD (0, 0)).2))

end Sys2Proof
end

