-- ==== Sys2Proof/Machine/Tables.lean ====
section
/-! DEFINITION. The reference tables REF_ALU and REF_BCD (spec/43_alu_bcd.md R227, R232, R240 to R247) and the spec's default
parameters (spec/00_scope.md R6). -/

namespace Sys2Proof.Machine

/-- The result bit `t` of each A-op on source bit `r`, destination bit `s`, working carry `c` (R240 to R247). -/
def refResult (op : AOp) (r s c : Bool) : Bool :=
  match op with
  | .zero => false
  | .and => r && s
  | .ior | .iorc | .iors => r || s
  | .xor => r ^^ s
  | .add => r ^^ s ^^ c
  | .sub => !r ^^ s ^^ c

/-- The tentative carry `ct` of each A-op (R240 to R247). R241 to R243 give the logical ones no tentative carry; it is dead,
since their `cupd` is 0 (log entry 13). -/
def refCarry (op : AOp) (r s c : Bool) : Bool :=
  match op with
  | .zero | .and | .ior | .xor => c
  | .add => (r && s) || (r && c) || (s && c)
  | .sub => (!r && s) || (!r && c) || (s && c)
  | .iorc => false
  | .iors => true

/-- `cupd`: whether the A-op is carry-relevant (R229). -/
def refUpdates (op : AOp) : Bool :=
  match op with
  | .zero | .and | .ior | .xor => false
  | .add | .sub | .iorc | .iors => true

/-- An `ALU_TABLE` entry `{cupd, ct, t}` (R223). -/
def aluEntryOf (cupd ct t : Bool) : BitVec 8 :=
  0#5 ++ BitVec.ofBool cupd ++ BitVec.ofBool ct ++ BitVec.ofBool t

/-- The REF_ALU entry of an index `{op, CW, DM, a0, s, r}`: it ignores `DM` and `a0` (R223, R224, R227). -/
def refAluAt (i : BitVec 8) : BitVec 8 :=
  let op := AOp.ofCode (i.extractLsb' 5 3)
  let c := i.getLsbD 4
  let s := i.getLsbD 1
  let r := i.getLsbD 0
  aluEntryOf (refUpdates op) (refCarry op r s c) (refResult op r s c)

/-- REF_ALU (R227). -/
def refAlu : Vector (BitVec 8) 256 :=
  ⟨⟨(List.range 256).map fun i => refAluAt (BitVec.ofNat 8 i)⟩, by simp⟩

/-- The corrected digit and decimal carry of REF_BCD for a direction, a carry out of the nibble and the nibble (R232). -/
def refDigit (dir cb : Bool) (nib : Nat) : Bool × Nat :=
  let s5 := 16 * cb.toNat + nib
  let u := if dir then (s5 + 26) % 32 else s5
  if u < 10 then (false, u) else if u < 20 then (true, u - 10) else (false, u % 16)

/-- The REF_BCD entry `{dc, nib'}` of an index `{x, x, dir, cb, NIB}` (R232). -/
def refBcdAt (i : BitVec 8) : BitVec 8 :=
  let d := refDigit (i.getLsbD 5) (i.getLsbD 4) (i.extractLsb' 0 4).toNat
  0#3 ++ BitVec.ofBool d.1 ++ BitVec.ofNat 4 d.2

/-- REF_BCD (R232). -/
def refBcd : Vector (BitVec 8) 256 :=
  ⟨⟨(List.range 256).map fun i => refBcdAt (BitVec.ofNat 8 i)⟩, by simp⟩

/-- The spec's default `QSEL` (R203, D10): `CSA[7:4]`. -/
def defaultQsel : Vector Qualifier 4 :=
  #v[.csa 4, .csa 5, .csa 6, .csa 7]

/-- The spec's default `QUALTAB` (R204, D11). -/
def defaultQualtab : Vector Qualifier 16 :=
  #v[.reg .Q 15, .reg .Q 14, .reg .Q 13, .reg .Q 12, .reg .Q 11, .reg .Q 10, .reg .Q 9, .qb,
    .reg .Q 0, .bc, .dc, .serviceRequested, .ab, .reg .P 0, .rdy, .acc 0]

/-- `OUT_CLASS` of R278 (D22) with `SC_AUX` the select code of the auxiliary-buffer class. -/
def outClassFor (scAux sc : SelectCode) : OutClass :=
  if sc = 0 then .internal else if sc = scAux then .auxbuf else .std

/-- The sixteen classes of R278. -/
def outClasses (scAux : SelectCode) : Vector OutClass 16 :=
  ⟨⟨(List.range 16).map fun k => outClassFor scAux (BitVec.ofNat 4 k)⟩, by simp⟩

/-- The defaults of R6 (D5, D8, D10, D11, D13, D16, D17, D22, D24, D25, D43). -/
def defaultParams : Params :=
  { opTable := defaultOps
    aluTable := refAlu
    bcdTable := refBcd
    qLayout := defaultQLayout
    qsel := defaultQsel
    qualtab := defaultQualtab
    carryCommit := .working
    exposeStrobes := true
    absentReady := true
    outClass := outClasses 15
    modelQuirks := [] }

end Sys2Proof.Machine
end

