-- ==== Sys2Proof/Machine/State.lean ====
section
/-! DEFINITION. The state of GO9800-CORE as plain data: everything spec/10_state.md gives the machine, and the model's own
fields (INVENTORY.md, State). -/

namespace Sys2Proof.Machine

/-- What a register's `src` is bound to: a register, possibly itself, or the computation bus (R120). -/
inductive Source where
  | reg (n : RegName)
  | tbus
deriving DecidableEq, Repr

/-- A bit register: its width, fixed when it is made, `val`, `src`, `en`, `lat` (R30, R120). -/
structure BitReg where
  width : Nat
  val : BitVec width
  src : Source
  en : Bool
  lat : Bool
deriving DecidableEq, Repr

/-- The bit registers, and the runtime selector `IOR.byte` (R44, R131). -/
structure Regs where
  a : BitReg
  b : BitReg
  t : BitReg
  m : BitReg
  p : BitReg
  q : BitReg
  e : BitReg
  ior : BitReg
  aux : BitReg
  iorByte : Bool
deriving DecidableEq, Repr

/-- What drives a one-bit bus: a register's output bit, or the unit constant (R141). -/
inductive Driver where
  | reg (n : RegName)
  | unit
deriving DecidableEq, Repr

/-- The buses (R31, R32): none is null. -/
structure Buses where
  rbus : Option Driver
  sbus : Option Driver
  tbus : Bool
  iob : Option Word
deriving DecidableEq, Repr

/-- The transient state of one execute cycle (R33), and `I`, the instruction fetched for it (R191). -/
structure Cycle where
  ir : Option Entry
  unitf : Bool
  dm : Bool
  cw : Bool
  ct : Bool
  ctv : Bool
  nib : BitVec 4
  evn : Nat
  brt : Bool
  trip : Nat
deriving DecidableEq, Repr

/-- A device-directory entry: select code and peripheral reference (R46). A code that R277 masks to 0 (16, say) is kept as an entry of code 0,
which R46 does not give (DESIGN CHOICE, log entry 31); no operation addresses it (R252). -/
structure DirEntry where
  code : SelectCode
  dev : Nat
deriving DecidableEq, Repr

/-- The arbiter's latches, strobe vector, addressed-device field and directory (R40 to R43, R46). -/
structure Arbiter where
  rdy : Bool
  inh : Bool
  ena : Bool
  bsy : Bool
  ssf : Bool
  stb : BitVec 15
  stp : Bool
  sel : SelectCode
  directory : List DirEntry
deriving DecidableEq, Repr

/-- Storage (R49, R71): cell address and value, in canonical form (`Memory.wf`). -/
abbrev Memory := List (Nat × Word)

/-- A range of cells, both ends included, that refuse writes (R73, D30). -/
structure RomRange where
  first : Nat
  last : Nat
deriving DecidableEq, Repr

/-- What an I/O operation still has to do once its handshake is over (R264, R267 to R270). -/
inductive HoldPost where
  | none
  | load8
  | load16
deriving DecidableEq, Repr

/-- The engine held at a handshake (R275): what is left of the operation, and whether the trailing clear-flag follows (R272). -/
structure Hold where
  post : HoldPost
  clf : Bool
deriving DecidableEq, Repr

/-- A transition of a PERIPHERAL (R276 (a) to (e)). -/
inductive PeriphAct where
  | raise
  | withdraw
  | complete
  | ready (v : Bool)
  | status
deriving DecidableEq, Repr

/-- A transition of the HOST after construction (R277 (a) to (c)). -/
inductive HostAct where
  | stop (v : Bool)
  | register (d : DirEntry)
  | remove (d : DirEntry)
  | preset
deriving DecidableEq, Repr

/-- A transition of an agent other than the engine. -/
inductive ExtEvent where
  | periph (d : DirEntry) (a : PeriphAct)
  | host (h : HostAct)
deriving DecidableEq, Repr

/-- A call of a device (R254): `output(v)` with the value offered, or `input()`. -/
inductive DevCall where
  | output (d : DirEntry) (v : Word)
  | input (d : DirEntry)
deriving DecidableEq, Repr

/-- The outside world as plain data, the model's own fields: the transitions still to come, one group per interleaving point;
the device answers `(busy, data)` still to come; the device calls made, newest first. Log entries 7 and 8. -/
structure Outside where
  env : List (List ExtEvent)
  answers : List (Bool × Word)
  calls : List DevCall
deriving DecidableEq, Repr

/-- The machine. -/
structure State where
  csa : CsAddr
  regs : Regs
  ab : Bool
  bc : Bool
  dc : Bool
  buses : Buses
  cyc : Cycle
  arb : Arbiter
  mem : Memory
  rom : List RomRange
  cs : List (Nat × ControlWord)
  cfg : Params
  hold : Option Hold
  ext : Outside
deriving DecidableEq, Repr

/-- Why a machine is not built: the fatal load conditions (R99, R227, R302, R333, R334, R346). The engine has no failure states (R300): no step
and no meaning answers a fault; the loader `construct` alone answers these. -/
inductive Fault where
  /-- A ROM dump file is missing. Raised by `construct` (R333). Safe: no machine exists. -/
  | romMissing
  /-- A ROM dump has fewer than 256 lines. Raised by `construct` (R333). Safe: no machine exists. -/
  | romShort
  /-- A ROM dump has more than 256 lines. Raised by `construct` (R333). Safe: no machine exists. -/
  | romLong
  /-- A ROM dump line is empty or holds a character other than 0 and 1. Raised by `construct` (R333). Safe: no machine exists. -/
  | romMalformed
  /-- A control-store line does not have 28 digits. Raised by `construct` (R333, D40). Safe: no machine exists. -/
  | romLineWidth
  /-- The supplied `OPTABLE` leaves a code without an operation. Raised by `construct` (R99, U4). Safe: no machine exists. -/
  | codeUnassigned
  /-- The supplied `ALU_TABLE` has no opcode with the entries of `A_ADD`. Raised by `construct` (R227 (a)). Safe: no machine exists. -/
  | additionMissing
  /-- An opcode whose A-op allows shift-skip has `ALU_TABLE` entries under which the skip could be seen. Raised by `construct` (R346, U4).
  Safe: no machine exists. -/
  | skipVisible
  /-- The tables fail the decimal self-check. Raised by `construct` (R235, R334). Safe: no machine exists. -/
  | decimalCheckFailed
deriving DecidableEq, Repr

/-- Why an instruction has no meaning here. -/
inductive Refusal where
  /-- An instruction not modelled yet. Raised by no arm: every instruction has its meaning. Safe. -/
  | notModelled (mnemonic : String)
deriving DecidableEq, Repr

/-- A bit register as it is made and between cycles: its width and value, bound to itself, off (R30, R120). -/
def BitReg.atRest (self : RegName) {w : Nat} (v : BitVec w) (lat : Bool) : BitReg :=
  { width := w, val := v, src := .reg self, en := false, lat := lat }

/-- The buses between cycles (R31, R212). -/
def Buses.idle : Buses :=
  { rbus := none, sbus := none, tbus := false, iob := none }

/-- The transients between cycles, all dead (R33). DESIGN CHOICE, log entry 10. -/
def Cycle.idle : Cycle :=
  { ir := none, unitf := false, dm := false, cw := false, ct := false, ctv := false, nib := 0, evn := 0, brt := true, trip := 0 }

/-- The registers after construction and power-on-preset, of the given widths: bindings as R60 says, values 0 (DESIGN CHOICE, log
entry 2). -/
def Regs.made (w : Widths) : Regs :=
  { a := .atRest .A 0#w.a false
    b := .atRest .B 0#w.b false
    t := .atRest .T 0#w.t false
    m := .atRest .M 0#w.m false
    p := .atRest .P 0#w.p false
    q := .atRest .Q 0#w.q false
    e := .atRest .E 0#w.e false
    ior := .atRest .IOR 0#w.ior false
    aux := .atRest .AUX 0#w.aux false
    iorByte := false }

/-- The registers after construction and power-on-preset, of the spec's default widths. -/
def Regs.reset : Regs :=
  Regs.made defaultWidths

/-- The arbiter after power-on-preset (R60), with STP clear and no device (DESIGN CHOICE, log entry 18). -/
def Arbiter.reset : Arbiter :=
  { rdy := false, inh := false, ena := false, bsy := false, ssf := false, stb := 0, stp := false, sel := 0, directory := [] }

/-- The machine after construction and power-on-preset (R60, R330). The control store is the OPEN `Config.csRom` (log entry 4);
the values R60 leaves unspecified are those of log entries 2, 3, 5, 7, 8, 10 and 18. -/
def State.reset : State :=
  { csa := 255
    regs := Regs.reset
    ab := false
    bc := false
    dc := false
    buses := Buses.idle
    cyc := Cycle.idle
    arb := Arbiter.reset
    mem := []
    rom := []
    cs := []
    cfg := defaultParams
    hold := none
    ext := { env := [], answers := [], calls := [] } }

end Sys2Proof.Machine
end

