-- ==== Sys2Proof/Machine/BitReg.lean ====
section
/-! DEFINITION. The bit register primitive and its specializations (spec/40_bit_register.md R120 to R132), and the two-phase pulse
over the register file (R125). -/

namespace Sys2Proof.Machine

/-- `{ b, v[N-1:1] }`: a right shift by one with `b` entering at the top (R124). -/
def shiftIn {w : Nat} (b : Bool) (v : BitVec w) : BitVec w :=
  (v >>> 1) ||| ((BitVec.ofBool b).setWidth w <<< (w - 1))

/-- `{ v[N-1:8], b, v[7:1] }` (R131); a register of no more than a byte shifts whole (DESIGN CHOICE, log entry 6). -/
def shiftInByte {w : Nat} (b : Bool) (v : BitVec w) : BitVec w :=
  if w ≤ 8 then shiftIn b v else (v.extractLsb' 8 (w - 8) ++ shiftIn b (v.extractLsb' 0 8)).setWidth w

/-- `v[pos] <- b`: the one bit a tap register moves (R130), and the fixed special case (R207). -/
def setBit {w : Nat} (pos : Nat) (b : Bool) (v : BitVec w) : BitVec w :=
  (v &&& ~~~(1#w <<< pos)) ||| ((BitVec.ofBool b).setWidth w <<< pos)

/-- Bit `i` of a register; a position it does not have reads 0 (DESIGN CHOICE, log entry 6). -/
def BitReg.bit (r : BitReg) (i : Nat) : Bool :=
  r.val.getLsbD i

/-- A register's value as a 16-bit word: all of it at the default widths. -/
def BitReg.word (r : BitReg) : Word :=
  r.val.setWidth 16

/-- A register's value as a number (R9). -/
def BitReg.nat (r : BitReg) : Nat :=
  r.val.toNat

/-- A parallel load (R147, R257, R267): the value masked to the register's width (R9). -/
def BitReg.load {w : Nat} (v : BitVec w) (r : BitReg) : BitReg :=
  { r with val := v.setWidth r.width }

/-- `setSource(r, src)` (R121). -/
def BitReg.setSource (src : Source) (r : BitReg) : BitReg :=
  { r with src := src }

/-- `shiftEnable(r, true)` (R122). -/
def BitReg.enable (r : BitReg) : BitReg :=
  { r with en := true }

/-- `shiftEnable(r, on)` (R122). -/
def BitReg.shiftEnable (on : Bool) (r : BitReg) : BitReg :=
  { r with en := on }

/-- Arms a register to receive the computation bus (R167, R168, R156). -/
def BitReg.arm (r : BitReg) : BitReg :=
  { r with src := .tbus, en := true }

/-- The output bit of a plain register (R120). -/
def BitReg.outBit (r : BitReg) : Bool :=
  r.bit 0

/-- `loadInput(r)`, given the output bit of its source (R123). -/
def BitReg.loadInput (bit : Bool) (r : BitReg) : BitReg :=
  if r.en then { r with lat := bit } else r

/-- `shift(r)` of a plain register (R124). -/
def BitReg.shift (r : BitReg) : BitReg :=
  if r.en then { r with val := shiftIn r.lat r.val } else r

/-- `shift(r)` of the byte-rotating register under its selector (R131). -/
def BitReg.shiftSel (byte : Bool) (r : BitReg) : BitReg :=
  if r.en then { r with val := if byte then shiftInByte r.lat r.val else shiftIn r.lat r.val } else r

/-- Source to self, shifting off; the value stays (R129). -/
def BitReg.release (self : RegName) (r : BitReg) : BitReg :=
  { r with src := .reg self, en := false }

/-- The binding and enable of `old`, the value and latch of `r` (R274: restore the saved `(src, en)`). -/
def BitReg.wiredAs (r old : BitReg) : BitReg :=
  { r with src := old.src, en := old.en }

/-! ## The register file -/

/-- Bit `i` of a register by name. -/
def Regs.bit (r : Regs) (i : Nat) : RegName → Bool
  | .A => r.a.bit i
  | .B => r.b.bit i
  | .T => r.t.bit i
  | .M => r.m.bit i
  | .P => r.p.bit i
  | .Q => r.q.bit i
  | .E => r.e.bit i
  | .IOR => r.ior.bit i
  | .AUX => r.aux.bit i

/-- The widths of the registers (R6, R120). -/
def Regs.widths (r : Regs) : Widths :=
  { a := r.a.width, b := r.b.width, t := r.t.width, m := r.m.width, p := r.p.width, q := r.q.width, e := r.e.width,
    ior := r.ior.width, aux := r.aux.width }

/-- The output bit of a register by name (R120). -/
def Regs.outBit (r : Regs) : RegName → Bool
  | .A => r.a.outBit
  | .B => r.b.outBit
  | .T => r.t.outBit
  | .M => r.m.outBit
  | .P => r.p.outBit
  | .Q => r.q.outBit
  | .E => r.e.outBit
  | .IOR => r.ior.outBit
  | .AUX => r.aux.outBit

/-- The output bit of a source: `outbit(x)` of a register, `TBUS` of the computation bus (R123). -/
def Regs.sourceBit (r : Regs) (tbus : Bool) : Source → Bool
  | .reg n => r.outBit n
  | .tbus => tbus

/-! ## The single-bit tap register (R130): a primitive without an instance in the CORE (R48), so it stands for itself, outside `Regs` -/

/-- What a tap register's `src` is bound to: itself, a register of the CORE, or the computation bus (R120). -/
inductive TapSource where
  | self
  | core (x : Source)
deriving DecidableEq, Repr

/-- A tap register: the moving bit stands at the fixed position `tap`, a parameter of the instance (R120, R130). -/
structure TapReg (w : Nat) where
  val : BitVec w
  tap : Fin w
  src : TapSource
  en : Bool
  lat : Bool
deriving DecidableEq, Repr

/-- A tap register as it is created: bound to itself, off (R120). Its value and latch the spec does not give: they are arguments. -/
def TapReg.create {w : Nat} (tap : Fin w) (v : BitVec w) (lat : Bool) : TapReg w :=
  { val := v, tap := tap, src := .self, en := false, lat := lat }

/-- `setSource(r, src)` (R121). -/
def TapReg.setSource {w : Nat} (src : TapSource) (r : TapReg w) : TapReg w :=
  { r with src := src }

/-- `shiftEnable(r, on)` (R122). -/
def TapReg.shiftEnable {w : Nat} (on : Bool) (r : TapReg w) : TapReg w :=
  { r with en := on }

/-- The output bit of a tap register (R130). -/
def TapReg.outBit {w : Nat} (r : TapReg w) : Bool :=
  r.val.getLsbD r.tap.val

/-- `shift` of a tap register: bit `tap` takes the latched bit, every other keeps its value (R130, D36). -/
def TapReg.shift {w : Nat} (r : TapReg w) : TapReg w :=
  if r.en then { r with val := setBit r.tap.val r.lat r.val } else r

/-- The end-of-instruction reset of a tap register (R129). -/
def TapReg.release {w : Nat} (r : TapReg w) : TapReg w :=
  { r with src := .self, en := false }

/-- The output bit of the source a tap register is bound to (R123). -/
def TapReg.sourceBit {w : Nat} (regs : Regs) (tbus : Bool) (r : TapReg w) : Bool :=
  match r.src with
  | .self => r.outBit
  | .core x => regs.sourceBit tbus x

/-- `loadInput` of a tap register beside a register file (R123, R130). -/
def TapReg.loadInput {w : Nat} (regs : Regs) (tbus : Bool) (r : TapReg w) : TapReg w :=
  if r.en then { r with lat := r.sourceBit regs tbus } else r

/-- A pulse of a tap register (R125): its input is latched from the register file as it stands before the pulse. -/
def TapReg.pulse {w : Nat} (regs : Regs) (tbus : Bool) (r : TapReg w) : TapReg w :=
  (r.loadInput regs tbus).shift

/-! ## Pulses of the register file -/

/-- Phase one of a pulse over the registers `g` names: every enabled one latches its source's bit (R125). -/
def Regs.loadInputs (g : RegName → Bool) (tbus : Bool) (r : Regs) : Regs :=
  { r with
    a := if g .A then r.a.loadInput (r.sourceBit tbus r.a.src) else r.a
    b := if g .B then r.b.loadInput (r.sourceBit tbus r.b.src) else r.b
    t := if g .T then r.t.loadInput (r.sourceBit tbus r.t.src) else r.t
    m := if g .M then r.m.loadInput (r.sourceBit tbus r.m.src) else r.m
    p := if g .P then r.p.loadInput (r.sourceBit tbus r.p.src) else r.p
    q := if g .Q then r.q.loadInput (r.sourceBit tbus r.q.src) else r.q
    e := if g .E then r.e.loadInput (r.sourceBit tbus r.e.src) else r.e
    ior := if g .IOR then r.ior.loadInput (r.sourceBit tbus r.ior.src) else r.ior
    aux := if g .AUX then r.aux.loadInput (r.sourceBit tbus r.aux.src) else r.aux }

/-- Phase two of a pulse: every enabled register shifts (R125), `IOR` as its selector says (R131). -/
def Regs.shifts (g : RegName → Bool) (r : Regs) : Regs :=
  { r with
    a := if g .A then r.a.shift else r.a
    b := if g .B then r.b.shift else r.b
    t := if g .T then r.t.shift else r.t
    m := if g .M then r.m.shift else r.m
    p := if g .P then r.p.shift else r.p
    q := if g .Q then r.q.shift else r.q
    e := if g .E then r.e.shift else r.e
    ior := if g .IOR then r.ior.shiftSel r.iorByte else r.ior
    aux := if g .AUX then r.aux.shift else r.aux }

/-- A pulse over a set of registers (R125): all inputs are latched before any register shifts. -/
def Regs.pulse (g : RegName → Bool) (tbus : Bool) (r : Regs) : Regs :=
  (r.loadInputs g tbus).shifts g

/-- The engine's set: every register; those not enabled do not move (R206). -/
def allRegs : RegName → Bool :=
  fun _ => true

/-- The end-of-instruction reset of every binding (R129, R212). -/
def Regs.release (r : Regs) : Regs :=
  { r with
    a := r.a.release .A
    b := r.b.release .B
    t := r.t.release .T
    m := r.m.release .M
    p := r.p.release .P
    q := r.q.release .Q
    e := r.e.release .E
    ior := r.ior.release .IOR
    aux := r.aux.release .AUX }

end Sys2Proof.Machine
end

