-- ==== Sys2Proof/Machine/Operands.lean ====
section
/-! DEFINITION. What the operations of a control word read and bind: the selected accumulator (spec/10_state.md R21, R22), the bus
drivers (spec/41_bus_operations.md R141) and the bits they present. -/

namespace Sys2Proof.Machine

/-- The register `AB` selects (R21, R22). -/
def State.accName (s : State) : RegName :=
  if s.ab then .B else .A

/-- `ACC` (R21). -/
def State.acc (s : State) : BitReg :=
  if s.ab then s.regs.b else s.regs.a

/-- Replaces the selected accumulator. -/
def State.setAcc (s : State) (r : BitReg) : State :=
  if s.ab then { s with regs := { s.regs with b := r } } else { s with regs := { s.regs with a := r } }

/-- The bit a driver presents; a null bus reads 0 (R141, R196). The unit driver presents 1 at the first evaluation only. -/
def driverBit (r : Regs) (evn : Nat) : Option Driver → Bool
  | none => false
  | some (.reg n) => r.outBit n
  | some .unit => evn == 0

/-- `rbit` (R141). -/
def State.rbit (s : State) : Bool :=
  driverBit s.regs s.cyc.evn s.buses.rbus

/-- `sbit` (R141). -/
def State.sbit (s : State) : Bool :=
  driverBit s.regs s.cyc.evn s.buses.sbus

/-- `IOB`, 0 if null (R32, R196). -/
def State.iobValue (s : State) : Word :=
  s.buses.iob.getD 0

/-- The view `SSD = {SEL[3:0], IOR[7:0]}` (R43, C1). -/
def State.ssd (s : State) : BitVec 12 :=
  s.arb.sel ++ s.regs.ior.word.extractLsb' 0 8

/-- The I/O operation `Q` holds, none where `Q.IOE` is clear (R26, R260). -/
def State.ioWord (s : State) : Option IoWord :=
  decodeIoqBy s.cfg.qLayout s.regs.q.val

/-- `Q.HC` (R26): the hold/clear bit and the hold condition of step 7 (D14). -/
def State.holdClear (s : State) : Bool :=
  s.regs.q.bit s.cfg.qLayout.hc

/-- The top four bits take `nib`: `v[15:12] <- nib` at the default width (R209, D18); of another width, its own top four (DESIGN CHOICE,
log entry 6). -/
def setTopDigit {w : Nat} (nib : BitVec 4) (v : BitVec w) : BitVec w :=
  (nib ++ v.extractLsb' 0 (w - 4)).setWidth w

/-- Installs a driver on the source bus. -/
def State.driveR (s : State) (d : Driver) : State :=
  { s with buses := { s.buses with rbus := some d } }

/-- Installs a driver on the destination bus. -/
def State.driveS (s : State) (d : Driver) : State :=
  { s with buses := { s.buses with sbus := some d } }

end Sys2Proof.Machine
end

