-- ==== Sys2Proof/Machine/Flags.lean ====
section
/-! DEFINITION. The ALU and decimal unit: table lookup, carries, nibble (spec/43_alu_bcd.md), the carry commit (R208) and the
decimal commit (R209) of spec/42_engine_cycle.md. -/

namespace Sys2Proof.Machine

/-- The `ALU_TABLE` index `{op[2:0], CW, DM, a0, s, r}` (R223). -/
def aluIndex (op : BitVec 3) (cw dm a0 sb rb : Bool) : BitVec 8 :=
  op ++ BitVec.ofBool cw ++ BitVec.ofBool dm ++ BitVec.ofBool a0 ++ BitVec.ofBool sb ++ BitVec.ofBool rb

/-- An entry of a 256-entry table. Of an `ALU_TABLE` entry only bits 2 to 0 are read, of a `BCD_TABLE` entry bits 4 to 0 (log entry 28). -/
def tableAt (tbl : Vector (BitVec 8) 256) (i : BitVec 8) : BitVec 8 :=
  tbl[i.toNat]

/-- The entry `{cupd, ct, t}` that `exec(op)` reads (R222). -/
def State.aluEntry (s : State) (op : BitVec 3) : BitVec 8 :=
  tableAt s.cfg.aluTable (aluIndex op s.cyc.cw s.cyc.dm s.acc.outBit s.sbit s.rbit)

/-- `init(cin, unitf, dm)` at step 8 (R201, R221): the carry-in is `DC` in decimal mode, else `BC` (D9). -/
def aluInit (s : State) : State :=
  { s with cyc := { s.cyc with cw := if s.cyc.dm then s.dc else s.bc, ctv := false, nib := 0, evn := 0 } }

/-- `exec(opcode)` as a pass that keeps only the tentative carry (R222). -/
def aluExec (op : BitVec 3) (s : State) : State :=
  { s with cyc := { s.cyc with ct := (s.aluEntry op).getLsbD 1, ctv := (s.aluEntry op).getLsbD 2 } }

/-- One evaluation of the loop: `exec`, then `TBUS <- t`, `EVN <- EVN + 1` (R202). -/
def aluPass (op : BitVec 3) (s : State) : State :=
  let s1 := aluExec op s
  { s1 with
    buses := { s1.buses with tbus := (s.aluEntry op).getLsbD 0 }
    cyc := { s1.cyc with evn := s.cyc.evn + 1 } }

/-- The carry the terminating pass commits (R208). -/
def State.committedCarry (s : State) : Bool :=
  match s.cfg.carryCommit with
  | .working => s.cyc.cw
  | .tentative => if s.cyc.ctv then s.cyc.ct else s.cyc.cw

/-- `BC <- committed_carry`, only outside decimal mode (R205, R208). -/
def commitCarry (s : State) : State :=
  if s.cyc.dm then s else { s with bc := s.committedCarry }

/-- The entry `{dc, nib'}` of `decimal_result()` (R233), the direction from the A-op (R231). -/
def State.bcdEntry (s : State) (op : AOp) : BitVec 8 :=
  tableAt s.cfg.bcdTable (0#2 ++ BitVec.ofBool (op == .sub) ++ BitVec.ofBool s.cyc.cw ++ s.cyc.nib)

/-- The corrected digit into `ACC[15:12]`, unless the unit-source flag is set (R209, D18). -/
def commitDigit (op : AOp) (s : State) : State :=
  if s.cyc.unitf then s
  else s.setAcc { s.acc with val := setTopDigit ((s.bcdEntry op).extractLsb' 0 4) s.acc.val }

/-- Step 10 (R209). -/
def decimalCommit (op : AOp) (s : State) : State :=
  if s.cyc.dm then { commitDigit op s with dc := (s.bcdEntry op).getLsbD 4 } else s

/-! ## What a supplied pair of tables must satisfy (R227, R234, R235) -/

/-- The opcodes an `OPTABLE` gives an A-op. -/
def opcodesOf (t : OpTable) (op : AOp) : List (BitVec 3) :=
  ((List.range 8).map fun c => BitVec.ofNat 3 c).filter fun c => t.aop c == op

/-- Whether the 32 entries of an opcode are those of `A_ADD` (R244, R227 (a)), in the three bits of an entry (R223). A bit above them,
which R223 calls zero without a consequence, is ignored here as at every read (DESIGN CHOICE, log entry 28). -/
def addsAt (alu : Vector (BitVec 8) 256) (code : BitVec 3) : Bool :=
  (List.range 32).all fun i =>
    (tableAt alu (code ++ BitVec.ofNat 5 i)).extractLsb' 0 3 == (refAluAt (AOp.add.code ++ BitVec.ofNat 5 i)).extractLsb' 0 3

/-- R227 (a): there is an opcode, `A_ADD`, whose entries are those of R244. -/
def additionCheck (ops : OpTable) (alu : Vector (BitVec 8) 256) : Bool :=
  (opcodesOf ops .add).any (addsAt alu)

/-- Whether an opcode's entries for two unclaimed buses, both bits 0, leave the carry alone and give one result bit, whatever the carry,
the mode and the accumulator bit (R346, U4; log entry 24). -/
def skipFits (alu : Vector (BitVec 8) 256) (code : BitVec 3) : Bool :=
  (List.range 8).all fun i =>
    let e := tableAt alu (code ++ BitVec.ofNat 3 i ++ 0#2)
    !e.getLsbD 2 && e.getLsbD 0 == (tableAt alu (code ++ 0#5)).getLsbD 0

/-- R346, U4: no A-op that allows shift-skip has entries under which the skip could be seen. -/
def skipCheck (ops : OpTable) (alu : Vector (BitVec 8) 256) : Bool :=
  (List.range 8).all fun c => !(ops.aop (BitVec.ofNat 3 c)).skipOK || skipFits alu (BitVec.ofNat 3 c)

/-- Four passes of an opcode of the ALU table in decimal mode with digit `a` on the destination bus and `b` on the source bus: the
carry and the nibble. The accumulator bit of the index is the destination bit (log entry 16). -/
def digitPasses (alu : Vector (BitVec 8) 256) (code : BitVec 3) (a b : BitVec 4) : Nat → Bool × BitVec 4 → Bool × BitVec 4
  | 0, x => x
  | n + 1, x =>
    let i := 3 - n
    let e := tableAt alu (aluIndex code x.1 true (a.getLsbD i) (a.getLsbD i) (b.getLsbD i))
    digitPasses alu code a b n (if e.getLsbD 2 then e.getLsbD 1 else x.1, BitVec.ofBool (e.getLsbD 0) ++ x.2.extractLsb' 1 3)

/-- The digit and decimal carry the two tables give for `a`, `b` and a carry-in, `op` the A-op of the opcode. -/
def digitResult (alu bcd : Vector (BitVec 8) 256) (op : AOp) (code : BitVec 3) (a b : BitVec 4) (cin : Bool) : BitVec 4 × Bool :=
  let x := digitPasses alu code a b 4 (cin, 0)
  let e := tableAt bcd (0#2 ++ BitVec.ofBool (op == .sub) ++ BitVec.ofBool x.1 ++ x.2)
  (e.extractLsb' 0 4, e.getLsbD 4)

/-- The law's sum: `a + b + carry` to add, `a + 9 - b + carry` to subtract (R234). -/
def decimalSum (op : AOp) (a b : Nat) (cin : Bool) : Nat :=
  if op = .sub then a + (9 - b) + cin.toNat else a + b + cin.toNat

/-- One case of the law (R234). -/
def decimalCaseHolds (alu bcd : Vector (BitVec 8) 256) (op : AOp) (code : BitVec 3) (a b : Nat) (cin : Bool) : Bool :=
  digitResult alu bcd op code (BitVec.ofNat 4 a) (BitVec.ofNat 4 b) cin
    == (BitVec.ofNat 4 (decimalSum op a b cin % 10), decide (10 ≤ decimalSum op a b cin))

/-- The cases of one opcode: every digit pair, both carry-ins. -/
def decimalCasesHold (alu bcd : Vector (BitVec 8) 256) (op : AOp) (code : BitVec 3) : Bool :=
  (List.range 10).all fun a => (List.range 10).all fun b =>
    decimalCaseHolds alu bcd op code a b false && decimalCaseHolds alu bcd op code a b true

/-- The construction-time self-check (R235): the 200 cases of every opcode that is `A_ADD`, the 200 of every one that is `A_SUB`. An
`OPTABLE` that gives no code `A_SUB` has no subtract direction to check and is not refused for it (the spec does not say: DESIGN CHOICE,
log entry 27). -/
def decimalCheck (ops : OpTable) (alu bcd : Vector (BitVec 8) 256) : Bool :=
  (opcodesOf ops .add).all (decimalCasesHold alu bcd .add) && (opcodesOf ops .sub).all (decimalCasesHold alu bcd .sub)

end Sys2Proof.Machine
end

