-- ==== Sys2Proof/Machine/Ops.lean ====
section
/-! DEFINITION. The shared operations: storage (spec/20_memory.md), fetch, service request and acknowledge (what this machine has in
place of taking an exception, spec/60_exceptions.md R304 to R309), power-on-preset (spec/70_reset_and_hazards.md R330), and the
transitions of the other agents (spec/44_io_arbiter.md R276, R277). -/

namespace Sys2Proof.Machine

/-! ## Storage -/

/-- What a cell nothing has written reads as. DESIGN CHOICE, unsafe, log entry 3. -/
def cellDefault : Word := 0

/-- The number of storage cells (R6, R71). -/
def memSize : Nat := 32768

/-- The cell address of a 16-bit address register: bit 15 is ignored (R71). -/
def cellAddr (v : Word) : Nat :=
  (v.extractLsb' 0 15).toNat

/-- The value of a cell in a memory. -/
def Memory.get : Memory → Nat → Word
  | [], _ => cellDefault
  | (k, v) :: rest, a => if k = a then v else Memory.get rest a

/-- Puts a value into a memory in canonical form: sorted, and without the entries that read the same unlisted. -/
def Memory.put : Memory → Nat → Word → Memory
  | [], a, v => if v = cellDefault then [] else [(a, v)]
  | (k, x) :: rest, a, v =>
    if a < k then (if v = cellDefault then (k, x) :: rest else (a, v) :: (k, x) :: rest)
    else if a = k then (if v = cellDefault then rest else (a, v) :: rest)
    else (k, x) :: Memory.put rest a v

/-- Every listed address is at least `lo` and they rise strictly; every entry is a cell and differs from the default. -/
def Memory.wfFrom (lo : Nat) : Memory → Bool
  | [] => true
  | (k, v) :: rest => decide (lo ≤ k) && decide (k < memSize) && (v != cellDefault) && Memory.wfFrom (k + 1) rest

/-- The canonical form of a memory. -/
def Memory.wf (m : Memory) : Bool :=
  Memory.wfFrom 0 m

/-- `WRITABLE(addr)` (R73): a cell in no listed range takes writes. -/
def State.writable (s : State) (a : Nat) : Bool :=
  !(s.rom.any fun r => decide (r.first ≤ a) && decide (a ≤ r.last))

/-- `MemRead(addr, 1)` (R72). -/
def State.memRead (s : State) (addr : Word) : Word :=
  s.mem.get (cellAddr addr)

/-- `MemWrite(addr, 1, v)` (R73): a cell that is not writable keeps its value and nothing else happens. -/
def State.memWrite (s : State) (addr v : Word) : State :=
  if s.writable (cellAddr addr) then { s with mem := s.mem.put (cellAddr addr) v } else s

/-! ## Control store -/

/-- The word placed at an address of the control store, if one is. -/
def placedWord : List (Nat × ControlWord) → Nat → Option ControlWord
  | [], _ => none
  | (k, w) :: rest, a => if k = a then some w else placedWord rest a

/-- `CS[CSA]` as a raw word (R191): the word placed there, else the OPEN `CS_ROM` (log entry 4). -/
def State.fetchWord (s : State) : ControlWord :=
  match placedWord s.cs s.csa.toNat with
  | some w => w
  | none => Config.csRom s.csa

/-- The instruction of the next cycle, decoded by the configured `OPTABLE` (R191; decoding once at load or at each fetch is the same,
R34). -/
def State.fetch (s : State) : Instr :=
  .mi (decodeEntryBy s.cfg.opTable s.fetchWord)

/-- The control word `S_ZERO R_IOS X_NONE A_ZERO XTR SC=0 NXT=0,0`: the I/O-start operation alone. -/
def ioStartWord : ControlWord := 0x000020C

/-- Places a word where the next cycle fetches it, and nothing in its way: no handshake in progress, no other agent's transition
before the fetch. -/
def State.place (s : State) (w : ControlWord) : State :=
  { s with
    cs := (s.csa.toNat, w) :: s.cs
    hold := none
    ext := { s.ext with env := match s.ext.env with | [] => [] | g :: rest => [] :: g :: rest } }

/-- Places the instruction whose bits are `w`: a control word, or an I/O operation in `Q` with the I/O-start word to run it. -/
def State.placeBits (s : State) (nbits w : Nat) : State :=
  if nbits = 16 then
    ({ s with regs := { s.regs with q := s.regs.q.load (BitVec.ofNat 16 w) } }).place ioStartWord
  else s.place (BitVec.ofNat 28 w)

/-! ## Service request, acknowledge, end of service -/

/-- `serviceRequested()` (R256). -/
def State.serviceRequested (s : State) : Bool :=
  !s.arb.ssf && ((!s.arb.inh && s.arb.stb != 0) || s.arb.stp)

/-- The value the acknowledge sequence puts on `IOB`: the strobe vector, or `IOB` as it stands (R257). -/
def State.acknowledgeBus (s : State) : Option Word :=
  if s.cfg.exposeStrobes then some (s.arb.stb.setWidth 16) else s.buses.iob

/-- `serviceRequestAcknowledge()` (R257, R308): the entry to service, one atomic transition. -/
def serviceRequestAcknowledge (s : State) : State :=
  { s with
    arb := { s.arb with ssf := true, inh := true, sel := 0 }
    buses := { s.buses with iob := s.acknowledgeBus }
    regs := { s.regs with ior := s.regs.ior.load (s.acknowledgeBus.getD 0) } }

/-- The acknowledged state is left by the next dispatched `exec()`, which also addresses its device (R259, R280, R309). -/
def leaveAcknowledged (sc : BitVec 5) (s : State) : State :=
  { s with arb := { s.arb with ssf := false, sel := sc.setWidth 4 } }

/-- The return from service, `INH <- 0`, with the 16-bit rotation back (R271, R309). -/
def endService (s : State) : State :=
  { s with arb := { s.arb with inh := false }, regs := { s.regs with iorByte := false } }

/-! ## Power-on-preset -/

/-- Power-on-preset (R60, R330, R311). Register values, `AB`, `BC`, `DC`, `STP`, `MEM` and the directory are not touched. -/
def powerOnPreset (s : State) : State :=
  { s with
    csa := 255
    regs := { s.regs.release with iorByte := false }
    buses := Buses.idle
    arb := { s.arb with rdy := false, inh := false, ena := false, bsy := false, ssf := false, stb := 0, sel := 0 } }

/-! ## Device directory -/

/-- `lookup(sc)`: the entries of a select code in registration order; none for select code 0 (R252). -/
def lookupDevices (dir : List DirEntry) (sc : SelectCode) : List DirEntry :=
  if sc = 0 then [] else dir.filter fun d => d.code == sc

/-- `present(SEL)` (R252). -/
def State.present (s : State) : Bool :=
  !(lookupDevices s.arb.directory s.arb.sel).isEmpty

/-- `flag()` (R255). -/
def State.flag (s : State) : Bool :=
  if s.present then s.arb.rdy else s.cfg.absentReady

/-! ## The other agents -/

/-- The strobe bit of a select code: `STB[k-1]` (R41). Code 0 has none, R41 giving codes 1 to 15 only (DESIGN CHOICE, log entry 31). -/
def strobeBit (k : SelectCode) : BitVec 15 :=
  if k = 0 then 0 else 1#15 <<< (k.toNat - 1)

/-- A PERIPHERAL's transition on the arbiter (R276). One that is not enabled does not happen (log entry 7). One registered with code 0 has no
strobe to raise or withdraw, and completes a handshake or changes `RDY` where `SEL` is 0, as (c) and (d) read for `k = 0` (DESIGN CHOICE,
log entry 31). -/
def applyPeriph (k : SelectCode) (a : PeriphAct) (r : Arbiter) : Arbiter :=
  match a with
  | .raise => { r with stb := r.stb ||| strobeBit k }
  | .withdraw => { r with stb := r.stb &&& ~~~strobeBit k }
  | .complete => if r.bsy && r.sel == k then { r with bsy := false, rdy := true } else r
  | .ready v => if r.sel == k then { r with rdy := v } else r
  | .status => r

/-- Whether a handshake with a device of this select code is in progress (R277, U9). -/
def handshakeWith (k : SelectCode) (r : Arbiter) : Bool :=
  r.bsy && r.sel == k

/-- A transition of another agent (R276, R277). Of equal entries, the same code and peripheral registered twice, a removal takes the one
registered first (R46 and R277 do not say which: DESIGN CHOICE, log entry 25). Preset is enabled only at the boundary between two cycles
(R330, U8), directory changes only while no handshake with the device is in progress (R277, U9), a peripheral's acts
only while it is registered. A device whose code is 0 after the mask is registered like another (DESIGN CHOICE, log entry 31). -/
def applyEvent (boundary : Bool) (s : State) (x : ExtEvent) : State :=
  match x with
  | .periph d a => if s.arb.directory.contains d then { s with arb := applyPeriph d.code a s.arb } else s
  | .host (.stop v) => { s with arb := { s.arb with stp := v } }
  | .host (.register d) =>
    if handshakeWith d.code s.arb then s else { s with arb := { s.arb with directory := s.arb.directory ++ [d] } }
  | .host (.remove d) =>
    if handshakeWith d.code s.arb then s else { s with arb := { s.arb with directory := s.arb.directory.erase d } }
  | .host .preset => if boundary then powerOnPreset s else s

/-- An interleaving point (R78, R349): the next scheduled group of other agents' transitions happens, in order. -/
def interleave (boundary : Bool) (s : State) : State :=
  match s.ext.env with
  | [] => s
  | g :: rest => g.foldl (applyEvent boundary) { s with ext := { s.ext with env := rest } }

/-! ## Device calls -/

/-- One call of a device: the answer `(busy, data)` is the next scheduled one, else a free value (R254, U7); the call is logged. -/
def answerOf (s : State) : Bool × Word :=
  match s.ext.answers with
  | a :: _ => a
  | [] => Config.deviceAnswer s.ext.calls.length

/-- The state after a device call. -/
def afterCall (c : DevCall) (s : State) : State :=
  { s with ext := { s.ext with answers := s.ext.answers.tail, calls := c :: s.ext.calls } }

/-- `d.output(v)` for each device in order: whether any stays busy (R275). -/
def callOutputs (v : Word) : List DirEntry → State → Bool × State
  | [], s => (false, s)
  | d :: ds, s =>
    let x := callOutputs v ds (afterCall (.output d v) s)
    ((answerOf s).1 || x.1, x.2)

/-- `d.input()` for each device in order: whether any stays busy, and the data ORed onto `IOB` (R275). -/
def callInputs : List DirEntry → State → Bool × State
  | [], s => (false, s)
  | d :: ds, s =>
    let s1 := afterCall (.input d) s
    let x := callInputs ds { s1 with buses := { s1.buses with iob := some (s.iobValue ||| (answerOf s).2) } }
    ((answerOf s).1 || x.1, x.2)

end Sys2Proof.Machine
end

