-- ==== Sys2Proof/Machine/AOps.lean ====
section
/-! DEFINITION. The A-ops as bus operations (spec/41_bus_operations.md R170, spec/43_alu_bcd.md R222, R240 to R247): one evaluation
of the ALU, driving `TBUS`. What each computes is its row of `ALU_TABLE`, at the opcode R240 to R247 give it. -/

namespace Sys2Proof.Machine

/-- `A_ZERO` (R240). -/
def runAZero (s : State) : State := aluPass AOp.zero.code s

/-- `A_AND` (R241). -/
def runAAnd (s : State) : State := aluPass AOp.and.code s

/-- `A_IOR` (R242). -/
def runAIor (s : State) : State := aluPass AOp.ior.code s

/-- `A_XOR` (R243). -/
def runAXor (s : State) : State := aluPass AOp.xor.code s

/-- `A_ADD` (R244). -/
def runAAdd (s : State) : State := aluPass AOp.add.code s

/-- `A_SUB` (R245). -/
def runASub (s : State) : State := aluPass AOp.sub.code s

/-- `A_IORC` (R246). -/
def runAIorc (s : State) : State := aluPass AOp.iorc.code s

/-- `A_IORS` (R247). -/
def runAIors (s : State) : State := aluPass AOp.iors.code s

/-- One pass of an A-op; under the default `OPTABLE` the pass of an entry that selects it (R202, `Entry.wf`). -/
def runA (op : AOp) (s : State) : State :=
  match op with
  | .zero => runAZero s
  | .and => runAAnd s
  | .ior => runAIor s
  | .xor => runAXor s
  | .add => runAAdd s
  | .sub => runASub s
  | .iorc => runAIorc s
  | .iors => runAIors s

def execAZero (s : State) : Host.Outcome State Fault Refusal := .next (runAZero s)
def execAAnd (s : State) : Host.Outcome State Fault Refusal := .next (runAAnd s)
def execAIor (s : State) : Host.Outcome State Fault Refusal := .next (runAIor s)
def execAXor (s : State) : Host.Outcome State Fault Refusal := .next (runAXor s)
def execAAdd (s : State) : Host.Outcome State Fault Refusal := .next (runAAdd s)
def execASub (s : State) : Host.Outcome State Fault Refusal := .next (runASub s)
def execAIorc (s : State) : Host.Outcome State Fault Refusal := .next (runAIorc s)
def execAIors (s : State) : Host.Outcome State Fault Refusal := .next (runAIors s)

end Sys2Proof.Machine
end

