-- ==== Sys2Proof/Machine/FlagOps.lean ====
section
/-! DEFINITION. The five flags of a control word (spec/41_bus_operations.md R167 to R169, spec/42_engine_cycle.md R200, R203 to R205,
R210) and the qualifier test. -/

namespace Sys2Proof.Machine

/-- `TTT` (R167, step 4). -/
def runTtt (s : State) : State :=
  { s with regs := { s.regs with t := s.regs.t.arm } }

/-- `TTM` (R168, step 4). -/
def runTtm (s : State) : State :=
  { s with regs := { s.regs with m := s.regs.m.arm } }

/-- `XTR` (R169, step 2): the pre-load of the shared bus from the selected accumulator. -/
def runXtr (s : State) : State :=
  { s with buses := { s.buses with iob := some s.acc.word } }

/-- A condition, read now (R204). -/
def State.condition (s : State) (q : Qualifier) : Bool :=
  match q with
  | .csa i => s.csa.getLsbD i
  | .reg n i => s.regs.bit i n
  | .acc i => s.acc.bit i
  | .qb => s.regs.q.bit s.cfg.qLayout.qb
  | .bc => s.bc
  | .dc => s.dc
  | .ab => s.ab
  | .rdy => s.arb.rdy
  | .inh => s.arb.inh
  | .ena => s.arb.ena
  | .bsy => s.arb.bsy
  | .ssf => s.arb.ssf
  | .stp => s.arb.stp
  | .stb i => s.arb.stb.getLsbD i
  | .sel i => s.arb.sel.getLsbD i
  | .serviceRequested => s.serviceRequested
  | .const v => v
  | .not x => !s.condition x
  | .and x y => s.condition x && s.condition y
  | .or x y => s.condition x || s.condition y

/-- The four bits `QSEL` (R203); `CSA[7:4]` by default (D10). -/
def State.qsel (s : State) : BitVec 4 :=
  BitVec.ofBool (s.condition s.cfg.qsel[3]) ++ BitVec.ofBool (s.condition s.cfg.qsel[2]) ++
    BitVec.ofBool (s.condition s.cfg.qsel[1]) ++ BitVec.ofBool (s.condition s.cfg.qsel[0])

/-- The condition `QUALTAB[QSEL]` (R203, R204). -/
def State.qualifier (s : State) : Qualifier :=
  s.cfg.qualtab[s.qsel.toNat]

/-- `QUAL(n)` (R203), read now. -/
def State.qual (s : State) (n : BitVec 4) : Bool :=
  s.condition s.cfg.qualtab[n.toNat]

/-- Whether a condition reads arbiter state, which other agents write (R204). -/
def readsArbiter (q : Qualifier) : Bool :=
  match q with
  | .rdy | .inh | .ena | .bsy | .ssf | .stp | .stb _ | .sel _ | .serviceRequested => true
  | .csa _ | .reg _ _ | .acc _ | .qb | .bc | .dc | .ab | .const _ => false
  | .not x => readsArbiter x
  | .and x y | .or x y => readsArbiter x || readsArbiter y

/-- Whether the test of step 7 or 9 reads arbiter state, so that it is an atomic transition of its own (R204). -/
def State.testReadsArbiter (s : State) : Bool :=
  readsArbiter s.cfg.qsel[0] || readsArbiter s.cfg.qsel[1] || readsArbiter s.cfg.qsel[2] || readsArbiter s.cfg.qsel[3] ||
    readsArbiter s.qualifier

/-- Other agents may act before a test that reads arbiter state is sampled (R78, R306, R349; log entry 11). -/
def sampleQual (s : State) : State :=
  if s.testReadsArbiter then interleave false s else s

/-- `BRQ` (R205, R210): the branch test of the terminating pass. -/
def runBrq (s : State) : State :=
  let s1 := sampleQual s
  { s1 with cyc := { s1.cyc with brt := s1.qual s1.qsel } }

/-- `IQN` (R200): a qualifier that tests false skips the shift loop (log entry 14). -/
def runIqn (s : State) : State :=
  let s1 := sampleQual s
  if s1.qual s1.qsel then s1 else { s1 with cyc := { s1.cyc with trip := 0 } }

def execTtt (s : State) : Host.Outcome State Fault Refusal := .next (runTtt s)
def execTtm (s : State) : Host.Outcome State Fault Refusal := .next (runTtm s)
def execXtr (s : State) : Host.Outcome State Fault Refusal := .next (runXtr s)
def execBrq (s : State) : Host.Outcome State Fault Refusal := .next (runBrq s)
def execIqn (s : State) : Host.Outcome State Fault Refusal := .next (runIqn s)

end Sys2Proof.Machine
end

