-- ==== Sys2Proof/Machine/Arbiter.lean ====
section
/-! DEFINITION. The arbiter's transfer primitives `shift(count)` and `setCEO()` (spec/44_io_arbiter.md R274, R275), the handshake
hold, and the common entry and end of a dispatched I/O operation (R259, R272). -/

namespace Sys2Proof.Machine

/-- The direction of a transfer or handshake (R274, R275). -/
inductive Dir where
  | inp
  | out
deriving DecidableEq, Repr

/-- `OUT_CLASS(sc)` (R278). -/
def outClass (cfg : Params) (sc : SelectCode) : OutClass :=
  cfg.outClass[sc.toNat]

/-! ## `shift(count, dir, aux)` (R274) -/

/-- The accumulator during a transfer: it receives `IOR` on input and rotates on output. -/
def wireAcc (dir : Dir) (self : RegName) (r : BitReg) : BitReg :=
  match dir with
  | .inp => (r.setSource (.reg .IOR)).enable
  | .out => (r.setSource (.reg self)).enable

/-- `IOR` during a transfer: it rotates on input and receives the accumulator on output. -/
def wireIor (dir : Dir) (acc : RegName) (r : BitReg) : BitReg :=
  match dir with
  | .inp => (r.setSource (.reg .IOR)).enable
  | .out => (r.setSource (.reg acc)).enable

/-- `AUX` during a transfer of the auxiliary-buffer class: it receives the accumulator. -/
def wireAux (aux : Bool) (acc : RegName) (r : BitReg) : BitReg :=
  if aux then (r.setSource (.reg acc)).enable else r

/-- The bindings of a transfer (R274). -/
def wireTransfer (dir : Dir) (aux : Bool) (s : State) : State :=
  let s1 := s.setAcc (wireAcc dir s.accName s.acc)
  { s1 with regs := { s1.regs with ior := wireIor dir s.accName s1.regs.ior, aux := wireAux aux s.accName s1.regs.aux } }

/-- The set `G` of a transfer: only these registers move (R274). -/
def transferSet (aux : Bool) (acc : RegName) : RegName → Bool :=
  fun n => n == acc || n == .IOR || (aux && n == .AUX)

/-- One pass: the ALU is evaluated and its result discarded, then the set is pulsed (R274). -/
def transferPass (g : RegName → Bool) (s : State) : State :=
  let s1 := match s.cyc.ir with
    | some e => aluExec e.alu s
    | none => s
  { s1 with regs := s1.regs.pulse g s1.buses.tbus }

/-- `count` passes. -/
def transferPasses (g : RegName → Bool) : Nat → State → State
  | 0, s => s
  | n + 1, s => transferPasses g n (transferPass g s)

/-- Puts back the saved `(src, en)` of the accumulator, `IOR` and `AUX` (R274, D28). -/
def restoreWiring (old : Regs) (r : Regs) : Regs :=
  { r with a := r.a.wiredAs old.a, b := r.b.wiredAs old.b, ior := r.ior.wiredAs old.ior, aux := r.aux.wiredAs old.aux }

/-- `shift(count, dir, aux)` (R274). -/
def transfer (count : Nat) (dir : Dir) (aux : Bool) (s : State) : State :=
  let moved := transferPasses (transferSet aux s.accName) count (wireTransfer dir aux s)
  { moved with regs := restoreWiring s.regs moved.regs }

/-! ## `setCEO(dir)` (R275) -/

/-- The device calls of a handshake, in registration order. -/
def callDevices (dir : Dir) (ds : List DirEntry) (s : State) : Bool × State :=
  match dir with
  | .out => callOutputs s.iobValue ds s
  | .inp => callInputs ds s

/-- `IOB <- 0` at the start of an input handshake. -/
def clearIobFor (dir : Dir) (s : State) : State :=
  match dir with
  | .out => s
  | .inp => { s with buses := { s.buses with iob := some 0 } }

/-- `BSY <- v`. -/
def setBusy (v : Bool) (s : State) : State :=
  { s with arb := { s.arb with bsy := v } }

/-- The lock block of `setCEO(dir)` (R275): an absent device drops the output or reads zero, with no handshake (R253). -/
def setCEO (dir : Dir) (s : State) : State :=
  match lookupDevices s.arb.directory s.arb.sel with
  | [] => setBusy false (clearIobFor dir s)
  | d :: ds =>
    let x := callDevices dir (d :: ds) (clearIobFor dir (setBusy true s))
    setBusy x.1 x.2

/-! ## Common entry and end of a dispatched operation -/

/-- The entry block of a dispatched `exec()` (R259): `SSF <- 0`, `SEL <- Q[3:0]`; then the lock is free and other agents may act
before the operation's own block (R78 (c), R349; log entry 11). -/
def ioBegin (sc : BitVec 5) (s : State) : State :=
  interleave false (leaveAcknowledged sc s)

/-- `IO_CLF`, the trailing clear-flag (R272). -/
def runIoClf (s : State) : State :=
  { s with arb := { s.arb with rdy := false } }

/-- The trailing clear-flag where the hold/clear bit asks for it (R259, R272). -/
def ioEnd (hc : Bool) (s : State) : State :=
  if hc then runIoClf s else s

/-- The parallel latch of `IOB` into `IOR`, then `shift(count, IN)` (R267, R268). -/
def latchAndShift (count : Nat) (s : State) : State :=
  transfer count .inp false { s with regs := { s.regs with ior := s.regs.ior.load s.iobValue } }

/-- What an I/O operation does after its handshake (R267, R268, R272). -/
def ioFinish (h : Hold) (s : State) : State :=
  ioEnd h.clf <|
    match h.post with
    | .none => s
    | .load8 => latchAndShift 8 s
    | .load16 => latchAndShift 16 s

/-- `setCEO(dir)` and what follows it: while `BSY` is up the engine is held, its remaining work kept in State (R275). -/
def handshake (dir : Dir) (h : Hold) (s : State) : State :=
  let s1 := setCEO dir s
  if s1.arb.bsy then { s1 with hold := some h } else ioFinish h s1

end Sys2Proof.Machine
end

