-- ==== Sys2Proof/Machine/Io.lean ====
section
/-! DEFINITION. The I/O operations (spec/44_io_arbiter.md R259 to R273), dispatched from the qualifier register by `exec()`. -/

namespace Sys2Proof.Machine

/-- `IO_STF` (R262). -/
def runIoStf (sc : BitVec 5) (hc : Bool) (s : State) : State :=
  let s1 := ioBegin sc s
  ioEnd hc { s1 with arb := { s1.arb with rdy := true } }

/-- `IO_SFC` (R263): the skip is reported in `BC` (D21). -/
def runIoSfc (sc : BitVec 5) (hc : Bool) (s : State) : State :=
  let s1 := ioBegin sc s
  ioEnd hc { s1 with bc := !s1.flag }

/-- `IO_STC` (R264): the control latch, then the addressed device is offered `IOB`. -/
def runIoStc (sc : BitVec 5) (hc : Bool) (s : State) : State :=
  let s1 := ioBegin sc s
  handshake .out { post := .none, clf := hc } { s1 with arb := { s1.arb with ena := true } }

/-- `IO_CLC` (R265). -/
def runIoClc (sc : BitVec 5) (hc : Bool) (s : State) : State :=
  let s1 := ioBegin sc s
  ioEnd hc { s1 with arb := { s1.arb with ena := false } }

/-- `IO_SFS` (R266). -/
def runIoSfs (sc : BitVec 5) (hc : Bool) (s : State) : State :=
  let s1 := ioBegin sc s
  ioEnd hc { s1 with bc := s1.flag }

/-- `IO_LI8` (R267). -/
def runIoLi8 (sc : BitVec 5) (hc : Bool) (s : State) : State :=
  let s1 := ioBegin sc s
  handshake .inp { post := .load8, clf := hc } { s1 with regs := { s1.regs with iorByte := true } }

/-- `IO_LI16` (R268). -/
def runIoLi16 (sc : BitVec 5) (hc : Bool) (s : State) : State :=
  let s1 := ioBegin sc s
  handshake .inp { post := .load16, clf := hc } { s1 with regs := { s1.regs with iorByte := false } }

/-- The end of an output operation (R269, R270, R278): the value onto `IOB`, then the handshake unless the class is INTERNAL. -/
def offer (v : Word) (hc : Bool) (s : State) : State :=
  let s1 := { s with buses := { s.buses with iob := some v } }
  match outClass s.cfg s.arb.sel with
  | .internal => ioEnd hc s1
  | .auxbuf | .std => handshake .out { post := .none, clf := hc } s1

/-- `shift(count, OUT, aux)` with `aux` for the class AUXBUF (R269, R270). -/
def transferOut (count : Nat) (s : State) : State :=
  transfer count .out (outClass s.cfg s.arb.sel == .auxbuf) s

/-- `IO_OT8` (R269). -/
def runIoOt8 (sc : BitVec 5) (hc : Bool) (s : State) : State :=
  let s1 := ioBegin sc s
  let s2 := transferOut 8 { s1 with regs := { s1.regs with iorByte := true } }
  offer ((s2.regs.ior.word.extractLsb' 0 8).setWidth 16) hc s2

/-- `IO_OT16` (R270). -/
def runIoOt16 (sc : BitVec 5) (hc : Bool) (s : State) : State :=
  let s1 := ioBegin sc s
  let s2 := transferOut 16 { s1 with regs := { s1.regs with iorByte := false } }
  offer s2.regs.ior.word hc s2

/-- `IO_EOW` (R271). -/
def runIoEow (sc : BitVec 5) (hc : Bool) (s : State) : State :=
  ioEnd hc (endService (ioBegin sc s))

/-- `IO_NOP`, codes 10 and 11 (R273): the common entry and the trailing clear-flag only. -/
def runIoNopLow (_ : BitVec 1) (sc : BitVec 5) (hc : Bool) (s : State) : State :=
  ioEnd hc (ioBegin sc s)

/-- `IO_NOP`, codes 12 to 15 (R273). -/
def runIoNopHigh (_ : BitVec 2) (sc : BitVec 5) (hc : Bool) (s : State) : State :=
  ioEnd hc (ioBegin sc s)

/-- `exec()` with `Q.IOE` clear (R259): the acknowledge sequence if a request is pending, else nothing. -/
def runIoAck (s : State) : State :=
  if s.serviceRequested then serviceRequestAcknowledge s else s

/-- Dispatch of an I/O operation (R261). -/
def dispatchIo (i : IoWord) (s : State) : State :=
  match i.op with
  | .stf => runIoStf i.sc i.hc s
  | .sfc => runIoSfc i.sc i.hc s
  | .stc => runIoStc i.sc i.hc s
  | .clc => runIoClc i.sc i.hc s
  | .sfs => runIoSfs i.sc i.hc s
  | .li8 => runIoLi8 i.sc i.hc s
  | .li16 => runIoLi16 i.sc i.hc s
  | .ot8 => runIoOt8 i.sc i.hc s
  | .ot16 => runIoOt16 i.sc i.hc s
  | .eow => runIoEow i.sc i.hc s
  | .nopLow c => runIoNopLow c i.sc i.hc s
  | .nopHigh c => runIoNopHigh c i.sc i.hc s

/-- `exec()` (R259): `Q` is read once, at entry. -/
def arbiterExec (s : State) : State :=
  match s.ioWord with
  | some i => dispatchIo i s
  | none => runIoAck s

def execIoStf (sc : BitVec 5) (hc : Bool) (s : State) : Host.Outcome State Fault Refusal := .next (runIoStf sc hc s)
def execIoSfc (sc : BitVec 5) (hc : Bool) (s : State) : Host.Outcome State Fault Refusal := .next (runIoSfc sc hc s)
def execIoStc (sc : BitVec 5) (hc : Bool) (s : State) : Host.Outcome State Fault Refusal := .next (runIoStc sc hc s)
def execIoClc (sc : BitVec 5) (hc : Bool) (s : State) : Host.Outcome State Fault Refusal := .next (runIoClc sc hc s)
def execIoSfs (sc : BitVec 5) (hc : Bool) (s : State) : Host.Outcome State Fault Refusal := .next (runIoSfs sc hc s)
def execIoLi8 (sc : BitVec 5) (hc : Bool) (s : State) : Host.Outcome State Fault Refusal := .next (runIoLi8 sc hc s)
def execIoLi16 (sc : BitVec 5) (hc : Bool) (s : State) : Host.Outcome State Fault Refusal := .next (runIoLi16 sc hc s)
def execIoOt8 (sc : BitVec 5) (hc : Bool) (s : State) : Host.Outcome State Fault Refusal := .next (runIoOt8 sc hc s)
def execIoOt16 (sc : BitVec 5) (hc : Bool) (s : State) : Host.Outcome State Fault Refusal := .next (runIoOt16 sc hc s)
def execIoEow (sc : BitVec 5) (hc : Bool) (s : State) : Host.Outcome State Fault Refusal := .next (runIoEow sc hc s)
def execIoNopLow (c : BitVec 1) (sc : BitVec 5) (hc : Bool) (s : State) : Host.Outcome State Fault Refusal :=
  .next (runIoNopLow c sc hc s)
def execIoNopHigh (c : BitVec 2) (sc : BitVec 5) (hc : Bool) (s : State) : Host.Outcome State Fault Refusal :=
  .next (runIoNopHigh c sc hc s)
def execIoClf (s : State) : Host.Outcome State Fault Refusal := .next (runIoClf s)
def execIoAck (s : State) : Host.Outcome State Fault Refusal := .next (runIoAck s)

end Sys2Proof.Machine
end

