-- ==== Sys2Proof/Machine/ROps.lean ====
section
/-! DEFINITION. The R-ops, raw and derived (spec/41_bus_operations.md R147 to R154, R160 to R162): each claims or declines the
source bus at step 3, after the S-op. -/

namespace Sys2Proof.Machine

/-- `R_ZERO` (R149): declines `RBUS`. -/
def runRZero (s : State) : State :=
  s

/-- The unit constant on the source bus, with the unit-source flag (R150, R160). -/
def driveUnit (s : State) : State :=
  { s.driveR .unit with cyc := { s.cyc with unitf := true } }

/-- `R_UNIT` (R150). -/
def runRUnit (s : State) : State :=
  driveUnit s

/-- `R_UNITX` (R160): the unit constant; the suppressed pre-load is the engine's step 2 (R169, R192). -/
def runRUnitx (s : State) : State :=
  driveUnit s

/-- `R_P` (R151). -/
def runRP (s : State) : State :=
  { s.driveR (.reg .P) with regs := { s.regs with p := s.regs.p.enable } }

/-- `R_IOS`, the I/O start (R161): calls the arbiter and declines `RBUS`. -/
def runRIos (s : State) : State :=
  arbiterExec s

/-- `R_TRE` (R152): `E` drives `RBUS` and receives `T`, which rotates. -/
def runRTre (s : State) : State :=
  { s.driveR (.reg .E) with
    regs := { s.regs with e := (s.regs.e.setSource (.reg .T)).enable, t := s.regs.t.enable } }

/-- `R_E` (R162): `E` drives `RBUS` and rotates. -/
def runRE (s : State) : State :=
  { s.driveR (.reg .E) with regs := { s.regs with e := s.regs.e.enable } }

/-- `R_Q` (R153). -/
def runRQ (s : State) : State :=
  { s.driveR (.reg .Q) with regs := { s.regs with q := s.regs.q.enable } }

/-- `R_RDM` (R147): `T` is loaded from storage at `M`, then drives `RBUS`. -/
def runRRdm (s : State) : State :=
  { s.driveR (.reg .T) with
    regs := { s.regs with t := (s.regs.t.load (s.memRead s.regs.m.word)).enable } }

/-- `R_WTM` (R148): `T` is offered to storage at `M`; declines `RBUS`. -/
def runRWtm (s : State) : State :=
  s.memWrite s.regs.m.word s.regs.t.word

/-- `R_ACC` (R154), the accumulator as `AB` selects it now. -/
def runRAcc (s : State) : State :=
  (s.driveR (.reg s.accName)).setAcc s.acc.enable

/-- The R-op an entry selects (R193). -/
def runR (op : ROp) (s : State) : State :=
  match op with
  | .zero => runRZero s
  | .unit => runRUnit s
  | .unitx => runRUnitx s
  | .p => runRP s
  | .ios => runRIos s
  | .tre => runRTre s
  | .e => runRE s
  | .q => runRQ s
  | .rdm => runRRdm s
  | .wtm => runRWtm s
  | .acc => runRAcc s

def execRZero (s : State) : Host.Outcome State Fault Refusal := .next (runRZero s)
def execRUnit (s : State) : Host.Outcome State Fault Refusal := .next (runRUnit s)
def execRUnitx (s : State) : Host.Outcome State Fault Refusal := .next (runRUnitx s)
def execRP (s : State) : Host.Outcome State Fault Refusal := .next (runRP s)
def execRIos (s : State) : Host.Outcome State Fault Refusal := .next (runRIos s)
def execRTre (s : State) : Host.Outcome State Fault Refusal := .next (runRTre s)
def execRE (s : State) : Host.Outcome State Fault Refusal := .next (runRE s)
def execRQ (s : State) : Host.Outcome State Fault Refusal := .next (runRQ s)
def execRRdm (s : State) : Host.Outcome State Fault Refusal := .next (runRRdm s)
def execRWtm (s : State) : Host.Outcome State Fault Refusal := .next (runRWtm s)
def execRAcc (s : State) : Host.Outcome State Fault Refusal := .next (runRAcc s)

end Sys2Proof.Machine
end

