-- ==== Sys2Proof/Machine/SOps.lean ====
section
/-! DEFINITION. The S-ops (spec/41_bus_operations.md R143 to R146): each claims or declines the destination bus at step 3. -/

namespace Sys2Proof.Machine

/-- `S_ZERO` (R143): declines `SBUS`. -/
def runSZero (s : State) : State :=
  s

/-- `S_M` (R144). -/
def runSM (s : State) : State :=
  { s.driveS (.reg .M) with regs := { s.regs with m := s.regs.m.enable } }

/-- `S_T` (R145). -/
def runST (s : State) : State :=
  { s.driveS (.reg .T) with regs := { s.regs with t := s.regs.t.enable } }

/-- `S_ACC` (R146), the accumulator as `AB` selects it now. -/
def runSAcc (s : State) : State :=
  (s.driveS (.reg s.accName)).setAcc s.acc.enable

/-- The S-op an entry selects (R193). -/
def runS (op : SOp) (s : State) : State :=
  match op with
  | .zero => runSZero s
  | .m => runSM s
  | .t => runST s
  | .acc => runSAcc s

def execSZero (s : State) : Host.Outcome State Fault Refusal := .next (runSZero s)
def execSM (s : State) : Host.Outcome State Fault Refusal := .next (runSM s)
def execST (s : State) : Host.Outcome State Fault Refusal := .next (runST s)
def execSAcc (s : State) : Host.Outcome State Fault Refusal := .next (runSAcc s)

end Sys2Proof.Machine
end

