-- ==== Sys2Proof/Machine/XOps.lean ====
section
/-! DEFINITION. The X-ops (spec/41_bus_operations.md R155 to R159, R164 to R166): where the ALU output goes, decimal mode, the
accumulator flip-flop, and the fixed special case of the terminating pass. -/

namespace Sys2Proof.Machine

/-- `X_NONE` (R155). -/
def runXNone (s : State) : State :=
  s

/-- `X_P` (R156). -/
def runXP (s : State) : State :=
  { s with regs := { s.regs with p := s.regs.p.arm } }

/-- `X_Q` (R157). -/
def runXQ (s : State) : State :=
  { s with regs := { s.regs with q := s.regs.q.arm } }

/-- `X_ACC` (R159), the accumulator as `AB` selects it at step 5. -/
def runXAcc (s : State) : State :=
  s.setAcc s.acc.arm

/-- `X_E` (R164). -/
def runXE (s : State) : State :=
  { s with regs := { s.regs with e := s.regs.e.arm } }

/-- `X_QB` (R165, R207): its one effect, the computation-bus bit into `Q[QB_POS]` on the terminating pass; it does nothing at
step 5. -/
def runXQb (s : State) : State :=
  { s with regs := { s.regs with q := { s.regs.q with val := setBit s.cfg.qLayout.qb s.buses.tbus s.regs.q.val } } }

/-- `X_DEC` (R166): decimal mode for this instruction. -/
def runXDec (s : State) : State :=
  { s with cyc := { s.cyc with dm := true } }

/-- `X_CAB` (R158): toggles the accumulator select. -/
def runXCab (s : State) : State :=
  { s with ab := !s.ab }

/-- The X-op an entry selects, at step 5 (R195). -/
def runX (op : XOp) (s : State) : State :=
  match op with
  | .none => runXNone s
  | .p => runXP s
  | .q => runXQ s
  | .acc => runXAcc s
  | .e => runXE s
  | .qb => s
  | .dec => runXDec s
  | .cab => runXCab s

/-- The fixed special case of the terminating pass (R205, R207). -/
def specialCase (op : XOp) (s : State) : State :=
  match op with
  | .qb => runXQb s
  | .none | .p | .q | .acc | .e | .dec | .cab => s

def execXNone (s : State) : Host.Outcome State Fault Refusal := .next (runXNone s)
def execXP (s : State) : Host.Outcome State Fault Refusal := .next (runXP s)
def execXQ (s : State) : Host.Outcome State Fault Refusal := .next (runXQ s)
def execXAcc (s : State) : Host.Outcome State Fault Refusal := .next (runXAcc s)
def execXE (s : State) : Host.Outcome State Fault Refusal := .next (runXE s)
def execXQb (s : State) : Host.Outcome State Fault Refusal := .next (runXQb s)
def execXDec (s : State) : Host.Outcome State Fault Refusal := .next (runXDec s)
def execXCab (s : State) : Host.Outcome State Fault Refusal := .next (runXCab s)

end Sys2Proof.Machine
end

