-- ==== Sys2Proof/Machine/Engine.lean ====
section
/-! DEFINITION. The execute cycle of a whole control word, the row MI: the twelve steps of spec/42_engine_cycle.md (R190 to R212). -/

namespace Sys2Proof.Machine

/-- Step 1 leaves `I`; the flags the operations may set start clear (R191, R201). -/
def beginCycle (e : Entry) (s : State) : State :=
  { s with cyc := { Cycle.idle with ir := some e } }

/-- Step 2 (R192): the pre-load, suppressed for `R_UNITX` (R160). -/
def preload (e : Entry) (s : State) : State :=
  if e.xtr && e.rop != .unitx then runXtr s else s

/-- Steps 1 to 3: the engine may come out of them held at a handshake (R193). -/
def cycleFront (e : Entry) (s : State) : State :=
  runR e.rop (runS e.sop (preload e (beginCycle e s)))

/-- Step 4 (R194). -/
def armTargets (e : Entry) (s : State) : State :=
  let s1 := if e.ttt then runTtt s else s
  if e.ttm then runTtm s1 else s1

/-- Step 7 (R200). -/
def tripCount (e : Entry) (s : State) : State :=
  let n := if e.rop == .ios && s.holdClear then 0 else e.sc.toNat + 1
  let s1 := { s with cyc := { s.cyc with trip := n } }
  if e.iqn then runIqn s1 else s1

/-- The terminating pass, after its evaluation (R205): branch test, special case, carry commit. -/
def terminate (e : Entry) (s : State) : State :=
  let s1 := if e.brq then runBrq s else { s with cyc := { s.cyc with brt := true } }
  commitCarry (specialCase e.xop s1)

/-- A pulse, after its evaluation (R202, R206): two-phase shift, carry resample, nibble, count. -/
def pulse (s : State) : State :=
  { s with
    regs := s.regs.pulse allRegs s.buses.tbus
    cyc := { s.cyc with
      cw := if s.cyc.ctv then s.cyc.ct else s.cyc.cw
      nib := BitVec.ofBool s.buses.tbus ++ s.cyc.nib.extractLsb' 1 3
      trip := s.cyc.trip - 1 } }

/-- Step 9, the shift loop, for `n` pulses at most (R202). -/
def shiftLoop (e : Entry) : Nat → State → State
  | 0, s => terminate e (aluPass e.alu s)
  | n + 1, s => if e.skip then terminate e (aluPass e.alu s) else shiftLoop e n (pulse (aluPass e.alu s))

/-- The XOR mask of step 11 (R95, R211). -/
def nextMask (e : Entry) (brt : Bool) : CsAddr :=
  e.pm ++ (if brt then e.sm else e.sm &&& 0b1110)

/-- Step 11 (R211). -/
def nextAddress (e : Entry) (s : State) : State :=
  { s with csa := s.csa ^^^ nextMask e s.cyc.brt }

/-- Step 12 (R212), which also clears the transients, dead after step 11 (R33, log entry 10). -/
def endCycle (s : State) : State :=
  { s with regs := s.regs.release, buses := Buses.idle, cyc := Cycle.idle }

/-- Steps 8 and 9. -/
def runLoop (e : Entry) (s : State) : State :=
  shiftLoop e s.cyc.trip (aluInit s)

/-- Steps 4 to 12 (step 6 is the reading convention of `driverBit` and `iobValue`, R196). -/
def cycleBack (e : Entry) (s : State) : State :=
  endCycle (nextAddress e (decimalCommit e.aop (runLoop e (tripCount e (runX e.xop (armTargets e s))))))

/-- One execute cycle, up to a hold. -/
def runMi (e : Entry) (s : State) : State :=
  let s1 := cycleFront e s
  if s1.hold.isSome then s1 else cycleBack e s1

/-- The handshake is over: the rest of the I/O operation, then of the cycle (R275). -/
def resume (h : Hold) (s : State) : State :=
  let s1 := ioFinish h { s with hold := none }
  match s1.cyc.ir with
  | some e => cycleBack e s1
  | none => endCycle s1

/-- The row MI (R190). -/
def execMi (e : Entry) (s : State) : Host.Outcome State Fault Refusal := .next (runMi e s)

/-- A step of the machine while the engine is held (R275): other agents act; the engine goes on once `BSY` is down, else it stays
held. With nothing left to lift the hold this is the hang of U2: the state is its own next state. -/
def heldStep (h : Hold) (s : State) : State :=
  let s1 := interleave false s
  if s1.arb.bsy then s1 else resume h s1

end Sys2Proof.Machine
end

