-- ==== Sys2Proof/Machine/Dispatch.lean ====
section
/-! DEFINITION. The dispatch of every row of spec/opcode_table.json to its meaning. -/

namespace Sys2Proof.Machine

def exec (i : Instr) (s : State) : Host.Outcome State Fault Refusal :=
  match i with
  | .sZero => Sys2Proof.Machine.execSZero s
  | .sM => Sys2Proof.Machine.execSM s
  | .sT => Sys2Proof.Machine.execST s
  | .sAcc => Sys2Proof.Machine.execSAcc s
  | .rZero => Sys2Proof.Machine.execRZero s
  | .rUnit => Sys2Proof.Machine.execRUnit s
  | .rUnitx => Sys2Proof.Machine.execRUnitx s
  | .rP => Sys2Proof.Machine.execRP s
  | .rIos => Sys2Proof.Machine.execRIos s
  | .rTre => Sys2Proof.Machine.execRTre s
  | .rE => Sys2Proof.Machine.execRE s
  | .rQ => Sys2Proof.Machine.execRQ s
  | .rRdm => Sys2Proof.Machine.execRRdm s
  | .rWtm => Sys2Proof.Machine.execRWtm s
  | .rAcc => Sys2Proof.Machine.execRAcc s
  | .xNone => Sys2Proof.Machine.execXNone s
  | .xP => Sys2Proof.Machine.execXP s
  | .xQ => Sys2Proof.Machine.execXQ s
  | .xAcc => Sys2Proof.Machine.execXAcc s
  | .xE => Sys2Proof.Machine.execXE s
  | .xQb => Sys2Proof.Machine.execXQb s
  | .xDec => Sys2Proof.Machine.execXDec s
  | .xCab => Sys2Proof.Machine.execXCab s
  | .aZero => Sys2Proof.Machine.execAZero s
  | .aAnd => Sys2Proof.Machine.execAAnd s
  | .aIor => Sys2Proof.Machine.execAIor s
  | .aXor => Sys2Proof.Machine.execAXor s
  | .aAdd => Sys2Proof.Machine.execAAdd s
  | .aSub => Sys2Proof.Machine.execASub s
  | .aIorc => Sys2Proof.Machine.execAIorc s
  | .aIors => Sys2Proof.Machine.execAIors s
  | .ttt => Sys2Proof.Machine.execTtt s
  | .ttm => Sys2Proof.Machine.execTtm s
  | .xtr => Sys2Proof.Machine.execXtr s
  | .brq => Sys2Proof.Machine.execBrq s
  | .iqn => Sys2Proof.Machine.execIqn s
  | .mi e => Sys2Proof.Machine.execMi e s
  | .ioStf sc hc => Sys2Proof.Machine.execIoStf sc hc s
  | .ioSfc sc hc => Sys2Proof.Machine.execIoSfc sc hc s
  | .ioStc sc hc => Sys2Proof.Machine.execIoStc sc hc s
  | .ioClc sc hc => Sys2Proof.Machine.execIoClc sc hc s
  | .ioSfs sc hc => Sys2Proof.Machine.execIoSfs sc hc s
  | .ioLi8 sc hc => Sys2Proof.Machine.execIoLi8 sc hc s
  | .ioLi16 sc hc => Sys2Proof.Machine.execIoLi16 sc hc s
  | .ioOt8 sc hc => Sys2Proof.Machine.execIoOt8 sc hc s
  | .ioOt16 sc hc => Sys2Proof.Machine.execIoOt16 sc hc s
  | .ioEow sc hc => Sys2Proof.Machine.execIoEow sc hc s
  | .ioNopLow c sc hc => Sys2Proof.Machine.execIoNopLow c sc hc s
  | .ioNopHigh c sc hc => Sys2Proof.Machine.execIoNopHigh c sc hc s
  | .ioClf => Sys2Proof.Machine.execIoClf s
  | .ioAck => Sys2Proof.Machine.execIoAck s

end Sys2Proof.Machine
end

