-- ==== Sys2Proof/Machine/Step.lean ====
section
/-! DEFINITION. One step of the machine: the engine's next execute cycle, or, while it is held, the wait (spec/42_engine_cycle.md
R190, spec/44_io_arbiter.md R275), with the other agents' transitions scheduled before it (R349). -/

namespace Sys2Proof.Machine

/-- One step. Not held: other agents' transitions of the boundary, then `exec` of the instruction fetched at `CSA`. Held: see
`heldStep`. -/
def step (s : State) : Host.Outcome State Fault Refusal :=
  match s.hold with
  | some h => .next (heldStep h s)
  | none => exec (interleave true s).fetch (interleave true s)

/-- `s` with the instruction of these bits where the next step fetches it (log entry 22). -/
def State.withFetchWord (s : State) (nbits w : Nat) : State :=
  s.placeBits nbits w

end Sys2Proof.Machine
end

