-- ==== Sys2Proof/Machine/Construct.lean ====
section
/-! DEFINITION. Construction by the HOST: the ROM dump files, the fatal load conditions and the decimal self-check
(spec/70_reset_and_hazards.md R331 to R334). -/

namespace Sys2Proof.Machine

/-- A ROM dump file as its lines (R332). -/
abbrev RomFile := List (List Char)

/-- A base-2 digit (R332). -/
def digitOf (c : Char) : Option Nat :=
  if c = '0' then some 0 else if c = '1' then some 1 else none

/-- The rest of a line after its digits so far, the first digit the most significant (D40). -/
def lineFrom : Nat → List Char → Option Nat
  | n, [] => some n
  | n, c :: cs => match digitOf c with
    | some d => lineFrom (2 * n + d) cs
    | none => none

/-- The value of a line: none where it is empty or holds another character (R333). -/
def lineValue : List Char → Option Nat
  | [] => none
  | c :: cs => lineFrom 0 (c :: cs)

/-- The values of lines, all of them well formed (R333). -/
def lineValues : List (List Char) → Except Fault (List Nat)
  | [] => .ok []
  | l :: ls => match lineValue l, lineValues ls with
    | some n, .ok ns => .ok (n :: ns)
    | some _, .error f => .error f
    | none, _ => .error .romMalformed

/-- The 256 values of a dump (R332, R333). -/
def dumpValues (f : Option RomFile) : Except Fault (List Nat) :=
  match f with
  | none => .error .romMissing
  | some ls =>
    if ls.length < 256 then .error .romShort
    else if 256 < ls.length then .error .romLong
    else lineValues ls

/-- The control-store dump: each line also has 28 digits (R333, D40). -/
def controlValues (f : Option RomFile) : Except Fault (List Nat) :=
  match f, dumpValues f with
  | some ls, .ok ns => if ls.all fun l => l.length == 28 then .ok ns else .error .romLineWidth
  | none, .ok ns => .ok ns
  | _, .error e => .error e

/-- Numbers the words of the control store by their lines (R332). -/
def numbered : Nat → List Nat → List (Nat × ControlWord)
  | _, [] => []
  | i, n :: ns => (i, BitVec.ofNat 28 n) :: numbered (i + 1) ns

/-- The three ROM dump files; one that is missing is none. -/
structure RomFiles where
  cs : Option RomFile
  alu : Option RomFile
  bcd : Option RomFile
deriving DecidableEq, Repr

/-- An `OPTABLE` as a configuration supplies it: a code may lack its operation (R99, U4). -/
structure OpSource where
  s : Vector (Option SOp) 4
  r : Vector (Option ROp) 8
  x : Vector (Option XOp) 8
  a : Vector (Option AOp) 8
deriving DecidableEq, Repr

/-- The `OPTABLE` of a source that assigns every code. The operation objects are the spec's own, each with its constant `skipOK`, so
that a `skipOK` operation which enables a register (U4) cannot arise; one whose result depends on an input is for `checkTables`.
A raw R code may be given a derived operation (`R_UNITX`, `R_IOS`, `R_E`): it then runs as that operation, and the table is not refused
(the spec does not say: DESIGN CHOICE, log entry 29). -/
def OpSource.table (o : OpSource) : Except Fault OpTable :=
  if o.s.contains none || o.r.contains none || o.x.contains none || o.a.contains none then .error .codeUnassigned
  else .ok
    { s := o.s.map (·.getD .zero), r := o.r.map (·.getD .zero), x := o.x.map (·.getD .none), a := o.a.map (·.getD .zero) }

/-- An `OPTABLE` as a source. -/
def opSourceOf (t : OpTable) : OpSource :=
  { s := t.s.map some, r := t.r.map some, x := t.x.map some, a := t.a.map some }

/-- A lookup table of line values: entry `i` on line `i`, modulo 2^8 (log entry 15). A bit above those of an entry (R223, R232) is kept, and
no read sees it: such a dump is not refused (DESIGN CHOICE, log entry 28). -/
def tableOf (l : List Nat) : Vector (BitVec 8) 256 :=
  ⟨⟨(List.range 256).map fun i => BitVec.ofNat 8 (l.getD i 0)⟩, by simp⟩

/-- The machine right after the loading: `init` supplies what no dump does, the unspecified values (U1), the other parameters of R6, the
cells' writability, and the outside world; then the devices are registered and the machine is preset (R331 steps 5 to 7). -/
def assembled (ops : OpTable) (cs alu bcd : List Nat) (devices : List DirEntry) (init : State) : State :=
  powerOnPreset
    { init with
      cs := numbered 0 cs
      cfg := { init.cfg with opTable := ops, aluTable := tableOf alu, bcdTable := tableOf bcd }
      arb := { init.arb with directory := devices }
      cyc := Cycle.idle
      hold := none }

/-- The checks of the tables (R227 (a), R346, R235, R334). R229's `cupd` of the carry-relevant operations is asked of the one `A_ADD` that
R227 (a) names and of no other opcode: a table that leaves it 0 for `A_SUB`, `A_IORC`, `A_IORS` or another `A_ADD` is not refused for
that, and they run without the update (DESIGN CHOICE, log entry 30). -/
def checkTables (ops : OpTable) (alu bcd : Vector (BitVec 8) 256) : Except Fault Unit :=
  if !additionCheck ops alu then .error .additionMissing
  else if !skipCheck ops alu then .error .skipVisible
  else if !decimalCheck ops alu bcd then .error .decimalCheckFailed
  else .ok ()

/-- Construction (R331): any defect of a dump is fatal (R333), and so is an `OPTABLE` with a gap or a visible shift-skip (U4) and
a table pair that fails its checks (R227, R334). The table files are taken as dumps of the decoded tables (log entry 15). -/
def construct (files : RomFiles) (ops : OpSource) (devices : List DirEntry) (init : State) : Except Fault State := do
  let cs ← controlValues files.cs
  let alu ← dumpValues files.alu
  let bcd ← dumpValues files.bcd
  let t ← ops.table
  checkTables t (tableOf alu) (tableOf bcd)
  return assembled t cs alu bcd devices init

end Sys2Proof.Machine
end

