-- ==== Sys2Proof/Safety.lean ====
section
/-! DEFINITION. The terms statements use: the state between two cycles, the invariant of the machine, a quiet outside world, and
readings of a register's value. -/

namespace Sys2Proof.Machine

/-- A register bound to itself and off (R30). -/
abbrev BitReg.Off (self : RegName) (r : BitReg) : Prop :=
  r.src = .reg self ∧ r.en = false

/-- Every register is bound to itself and off (R30). -/
abbrev Regs.Off (r : Regs) : Prop :=
  r.a.Off .A ∧ r.b.Off .B ∧ r.t.Off .T ∧ r.m.Off .M ∧ r.p.Off .P ∧ r.q.Off .Q ∧ r.e.Off .E ∧ r.ior.Off .IOR ∧ r.aux.Off .AUX

/-- What R30, R31 and R212 give between two execute cycles: bindings off, buses cleared, transients idle. -/
abbrev State.Idle (s : State) : Prop :=
  s.regs.Off ∧ s.buses = Buses.idle ∧ s.cyc = Cycle.idle

/-- Between two cycles: the engine is not held and nothing of a cycle is left. -/
abbrev State.AtRest (s : State) : Prop :=
  s.hold = none ∧ s.Idle

/-- No transition of another agent is scheduled. -/
abbrev State.Quiet (s : State) : Prop :=
  s.ext.env = []

/-- The invariant of the machine: storage is canonical; `BSY` is up exactly while the engine is held (R275, R352), and then a
cycle is in progress; the engine at rest is idle (R30, R31); an acknowledged request inhibits (R280). -/
abbrev State.Inv (s : State) : Prop :=
  s.mem.wf = true ∧ s.arb.bsy = s.hold.isSome ∧ (s.hold.isSome = true → s.cyc.ir.isSome = true) ∧ (s.hold = none → s.Idle) ∧
    (s.arb.ssf = true → s.arb.inh = true)

/-- What a cycle whose word neither drives nor feeds the accumulator, `IOR` and `Q` and sets no decimal mode leaves at its hold. -/
abbrev State.HeldPlainly (s : State) : Prop :=
  s.regs.ior.en = false ∧ s.acc.en = false ∧ s.regs.q.en = false ∧ s.cyc.dm = false

/-- The engine is held and nothing scheduled can lift the hold: the hang of U2. -/
abbrev State.Stuck (s : State) : Prop :=
  s.hold.isSome = true ∧ s.arb.bsy = true ∧ s.Quiet

/-- The spec's reference ALU table and carry rule (R227, R208 with `CARRY_COMMIT = working`). -/
abbrev State.ReferenceAlu (s : State) : Prop :=
  s.cfg.aluTable = refAlu ∧ s.cfg.carryCommit = .working

/-- The spec's default `OPTABLE` (R97). -/
abbrev State.DefaultOps (s : State) : Prop :=
  s.cfg.opTable = defaultOps

/-- The registers have the spec's default widths (R6, D4). -/
abbrev State.DefaultWidths (s : State) : Prop :=
  s.regs.widths = defaultWidths

/-- The spec's default positions of the fields of `Q` (R26, D13). -/
abbrev State.DefaultFields (s : State) : Prop :=
  s.cfg.qLayout = defaultQLayout

/-- The spec's default qualifiers and their selector (R203, R204). -/
abbrev State.DefaultTests (s : State) : Prop :=
  s.cfg.qsel = defaultQsel ∧ s.cfg.qualtab = defaultQualtab

/-- `Q.IOE`: `Q[10]` by default (R26). -/
def State.qIoe (s : State) : Bool :=
  s.regs.q.bit s.cfg.qLayout.ioe

/-- `Q.IOOP`: `Q[8:5]` by default (R26). -/
def State.qIoop (s : State) : BitVec 4 :=
  s.regs.q.val.extractLsb' s.cfg.qLayout.ioopLo 4

/-- `Q.SC5`: `Q[4:0]` by default (R26). -/
def State.qSc (s : State) : BitVec 5 :=
  s.regs.q.val.extractLsb' s.cfg.qLayout.scLo 5

/-- The value of a register by name. -/
def Regs.value (r : Regs) : RegName → Nat
  | .A => r.a.nat
  | .B => r.b.nat
  | .T => r.t.nat
  | .M => r.m.nat
  | .P => r.p.nat
  | .Q => r.q.nat
  | .E => r.e.nat
  | .IOR => r.ior.nat
  | .AUX => r.aux.nat

/-- A register's value as a decimal digit's four bits: all of `E` at the default widths. -/
def BitReg.digit (r : BitReg) : BitVec 4 :=
  r.val.setWidth 4

/-- The binding of a register: its source and its shift-enable flag (R30). -/
def Regs.binding (r : Regs) : RegName → Source × Bool
  | .A => (r.a.src, r.a.en)
  | .B => (r.b.src, r.b.en)
  | .T => (r.t.src, r.t.en)
  | .M => (r.m.src, r.m.en)
  | .P => (r.p.src, r.p.en)
  | .Q => (r.q.src, r.q.en)
  | .E => (r.e.src, r.e.en)
  | .IOR => (r.ior.src, r.ior.en)
  | .AUX => (r.aux.src, r.aux.en)

/-- The latched input bit of a register (R30). -/
def Regs.latch (r : Regs) : RegName → Bool
  | .A => r.a.lat
  | .B => r.b.lat
  | .T => r.t.lat
  | .M => r.m.lat
  | .P => r.p.lat
  | .Q => r.q.lat
  | .E => r.e.lat
  | .IOR => r.ior.lat
  | .AUX => r.aux.lat

/-- The configuration of the machine, which no step changes (R34, R35, R50, R120). -/
abbrev SameConfiguration (s t : State) : Prop :=
  t.cs = s.cs ∧ t.cfg = s.cfg ∧ t.rom = s.rom ∧ t.regs.widths = s.regs.widths

/-- Everything private to the engine and its storage (R349): registers, address, latches, buses, cycle, storage. -/
abbrev SameEngine (s t : State) : Prop :=
  t.csa = s.csa ∧ t.regs = s.regs ∧ t.ab = s.ab ∧ t.bc = s.bc ∧ t.dc = s.dc ∧ t.buses = s.buses ∧ t.cyc = s.cyc ∧ t.mem = s.mem

/-! ## Devices -/

/-- The answers of the next `n` device calls: the scheduled ones, then free values (R254, U7). -/
def State.nextAnswers (s : State) (n : Nat) : List (Bool × Word) :=
  (List.range n).map fun i => s.ext.answers.getD i (Config.deviceAnswer (s.ext.calls.length + i))

/-- The devices an I/O operation with this select-code field addresses (R252, R260). -/
def State.addressed (s : State) (sc : BitVec 5) : List DirEntry :=
  lookupDevices s.arb.directory (sc.setWidth 4)

/-- Whether one of the addressed devices answers that the handshake stays busy (R275). -/
def State.answersBusy (s : State) (sc : BitVec 5) : Bool :=
  (s.nextAnswers (s.addressed sc).length).any (·.1)

/-- An I/O start that does not leave the engine held (R259, R264, R267 to R270, R275, R278): `Q` dispatches no operation, or one without a
handshake, or an output of the class INTERNAL, or no addressed device stays busy. -/
abbrev State.StartsUnheld (s : State) : Prop :=
  s.qIoe = false ∨ s.qIoop ∉ [2, 5, 6, 7, 8] ∨ (s.qIoop ∈ [7, 8] ∧ outClass s.cfg (s.qSc.setWidth 4) = .internal) ∨
    s.answersBusy s.qSc = false

/-- The OR of the data the addressed devices answer; 0 for none (R253, R275). -/
def State.inputWord (s : State) (sc : BitVec 5) : Word :=
  (s.nextAnswers (s.addressed sc).length).foldl (fun v a => v ||| a.2) 0

/-- The log after the addressed devices were offered `v` in registration order (R252, R254). -/
def State.offeredTo (s : State) (sc : BitVec 5) (v : Word) : List DevCall :=
  ((s.addressed sc).map fun d => DevCall.output d v).reverse ++ s.ext.calls

/-- The log after the addressed devices were asked for input in registration order. -/
def State.askedOf (s : State) (sc : BitVec 5) : List DevCall :=
  ((s.addressed sc).map DevCall.input).reverse ++ s.ext.calls

/-! ## Serial transfers of one register into another (R127, R128) -/

/-- `k` pulses of `x`, rotating in place, into `r`. -/
def feedPulses : Nat → BitReg × BitReg → BitReg × BitReg
  | 0, p => p
  | k + 1, p =>
    feedPulses k ((p.1.loadInput p.1.outBit).shift, (p.2.loadInput p.1.outBit).shift)

/-- `k` pulses of two registers bound to each other. -/
def crossPulses : Nat → BitReg × BitReg → BitReg × BitReg
  | 0, p => p
  | k + 1, p =>
    crossPulses k ((p.1.loadInput p.2.outBit).shift, (p.2.loadInput p.1.outBit).shift)

/-! ## Serial arithmetic (R237) -/

/-- The exact sum a `k`-pulse addition or subtraction forms from the low `k` bits of the destination value `a` and the source
value `q` (R244, R245). -/
def serialSum (op : AOp) (k a q c : Nat) : Nat :=
  if op = .sub then a % 2 ^ k + (2 ^ k - 1 - q % 2 ^ k) + c else a % 2 ^ k + q % 2 ^ k + c

/-- A 16-bit register after `k` result bits entered at its top: they land in the top `k` positions, the old high bits move down
(R127, R237). -/
def shiftedIn (k result old : Nat) : Nat :=
  result % 2 ^ k * 2 ^ (16 - k) + old / 2 ^ k

/-- The word-wide result of the A-ops that use no carry (R240 to R243, R246, R247). -/
def bitwiseResult (op : AOp) (q a : Word) : Word :=
  match op with
  | .zero => 0
  | .and => q &&& a
  | .xor => q ^^^ a
  | .ior | .iorc | .iors | .add | .sub => q ||| a

/-- What `BC` holds after an A-op that forms no sum (R229, R246, R247). -/
def bitwiseCarry (op : AOp) (bc : Bool) : Bool :=
  match op with
  | .iorc => false
  | .iors => true
  | .zero | .and | .ior | .xor | .add | .sub => bc

/-- The state as the qualifiers of step 7 see it, for a word without I/O start: `R_RDM` has loaded `T` at step 3, `X_CAB` has toggled the
accumulator select at step 5 (R147, R158, R193, R195). -/
def State.atStepSeven (s : State) (e : Entry) : State :=
  { s with
    ab := if e.xop = .cab then !s.ab else s.ab
    regs := if e.rop = .rdm then { s.regs with t := s.regs.t.load (s.memRead s.regs.m.word) } else s.regs }

/-- The shift loop runs: no qualifier inhibits it, with no other agent's transition scheduled where one is tested (R200). -/
abbrev State.loopRuns (s : State) (e : Entry) : Prop :=
  e.iqn = true → s.Quiet ∧ (s.atStepSeven e).qual (s.atStepSeven e).qsel = true

/-! ## The cycle as a chain of the rows of the opcode table (R142, R190) -/

/-- The row of an S-op. -/
def sRow : SOp → Instr
  | .zero => .sZero
  | .m => .sM
  | .t => .sT
  | .acc => .sAcc

/-- The row of an R-op. -/
def rRow : ROp → Instr
  | .zero => .rZero
  | .unit => .rUnit
  | .unitx => .rUnitx
  | .p => .rP
  | .ios => .rIos
  | .tre => .rTre
  | .e => .rE
  | .q => .rQ
  | .rdm => .rRdm
  | .wtm => .rWtm
  | .acc => .rAcc

/-- The row of an X-op. -/
def xRow : XOp → Instr
  | .none => .xNone
  | .p => .xP
  | .q => .xQ
  | .acc => .xAcc
  | .e => .xE
  | .qb => .xQb
  | .dec => .xDec
  | .cab => .xCab

/-- The row of an A-op. -/
def aRow : AOp → Instr
  | .zero => .aZero
  | .and => .aAnd
  | .ior => .aIor
  | .xor => .aXor
  | .add => .aAdd
  | .sub => .aSub
  | .iorc => .aIorc
  | .iors => .aIors

/-- The state `exec` of a row leaves. -/
def after (i : Instr) (s : State) : State :=
  match exec i s with
  | .next t => t
  | .fault _ | .refused _ => s

/-- The state `exec` of a row leaves where the word selects it. -/
def afterIf (b : Bool) (i : Instr) (s : State) : State :=
  if b then after i s else s

/-- Steps 1 to 3 (R191 to R193): the pre-load, the S-op, the R-op. -/
def frontByRows (e : Entry) (s : State) : State :=
  after (rRow e.rop) (after (sRow e.sop)
    (afterIf (e.xtr && e.rop != .unitx) .xtr { s with cyc := { Cycle.idle with ir := some e } }))

/-- Steps 4 to 7 (R194, R195, R200): the destination flags, the X-op, the trip count with the inhibit flag. The row X_QB is the special
case of the terminating pass. -/
def setupByRows (e : Entry) (s : State) : State :=
  let s1 := afterIf (e.xop != .qb) (xRow e.xop) (afterIf e.ttm .ttm (afterIf e.ttt .ttt s))
  let n := if e.rop = .ios ∧ s1.holdClear = true then 0 else e.sc.toNat + 1
  afterIf e.iqn .iqn { s1 with cyc := { s1.cyc with trip := n } }

/-- The terminating pass (R205): the A-op, the branch flag, the special case, the carry commit. -/
def lastPassByRows (e : Entry) (s : State) : State :=
  let s1 := after (aRow e.aop) s
  let s2 := if e.brq then after .brq s1 else { s1 with cyc := { s1.cyc with brt := true } }
  commitCarry (afterIf (e.xop == .qb) .xQb s2)

/-- The shift loop (R202): the A-op, then a pulse, for `n` pulses at most. -/
def loopByRows (e : Entry) : Nat → State → State
  | 0, s => lastPassByRows e s
  | n + 1, s => if e.skip then lastPassByRows e s else loopByRows e n (pulse (after (aRow e.aop) s))

/-- Steps 4 to 12 (R194 to R212). -/
def backByRows (e : Entry) (s : State) : State :=
  let s1 := setupByRows e s
  endCycle (nextAddress e (decimalCommit e.aop (loopByRows e s1.cyc.trip (aluInit s1))))

/-- A whole cycle, up to a hold. -/
def cycleByRows (e : Entry) (s : State) : State :=
  let s1 := frontByRows e s
  if s1.hold.isSome then s1 else backByRows e s1

/-! ## The machine without shift-skip (R171) -/

/-- An instruction with shift-skip forced off. -/
def withoutSkip : Instr → Instr
  | .mi e => .mi { e with skip := false }
  | i => i

/-- A step with shift-skip forced off. -/
def stepWithoutSkip (s : State) : Host.Outcome State Fault Refusal :=
  match s.hold with
  | some h => .next (heldStep h s)
  | none => exec (withoutSkip (interleave true s).fetch) (interleave true s)

/-- The machine with shift-skip forced off. -/
def coreWithoutSkip : Host.Core :=
  { State := State, Fault := Fault, Refusal := Refusal, step := stepWithoutSkip, reset := State.reset }

end Sys2Proof.Machine
end

