-- ==== Sys2Proof/Certificates/Slice0/Obligations.lean ====
section
/-! DEFINITION. The statements for the provers: what the rules of spec/ say of GO9800-CORE. -/

open Sys2Proof Sys2Proof.Machine

/-! ## Encoding and decode (spec/30_encoding.md) -/

/-- R101: for every well-formed instruction that is a word of its own (a control word, a dispatched I/O operation, the
acknowledge), decoding its encoding gives it back. -/
def Obligations.DecodeOfEncodeGivesInstruction : Prop :=
  ∀ i : Instr, i.wf = true → i.part = none → decodeCode (encode i) = i

/-- R99, R101, R98, R260: every one of the 2^28 control words decodes to a well-formed entry, and encoding it gives the word back;
where `Q.IOE` is set, encoding the decoded I/O operation gives `Q` back but for its bits 15 to 11; where it is clear, `Q` stands for
the row IO_ACK. -/
def Obligations.EncodeOfDecodeGivesTheWord : Prop :=
  (∀ w : ControlWord, (decodeEntry w).wf = true ∧ encodeEntry (decodeEntry w) = w) ∧
  ∀ q : Word,
    (q.getLsbD 10 = true → encode (decodeQ q) = .ioq (q &&& 0x07FF)) ∧ (q.getLsbD 10 = false → decodeQ q = .ioAck)

/-- The rows of the opcode table: a row's bits stand in a control word exactly when the decoded entry selects that operation or
flag. The one exception is the pair `R = 3`, `X = 4`, which is the row R_E with X_NONE in place of R_TRE and X_E (R100); for a word with
that pair the S-, A- and flag rows, and the other R- and X-rows, still stand exactly when they are selected. -/
def Obligations.RowBitsSelectTheirOperation : Prop :=
  ∀ (i : Instr) (w : ControlWord), i.part.isSome = true → i ≠ .ioClf →
    (Instr.rE.standsIn w = false ∨ (i ≠ .rE ∧ i ≠ .xNone ∧ i ≠ .rTre ∧ i ≠ .xE) → (decodeEntry w).selects i = i.standsIn w) ∧
    (Instr.rE.standsIn w = true → i = .rE ∨ i = .xNone → (decodeEntry w).selects i = true) ∧
    (Instr.rE.standsIn w = true → i = .rTre ∨ i = .xE → (decodeEntry w).selects i = false)

/-- R163: the decoded flag `skip`, with the operations whose `skipOK` is true in the default table. -/
def Obligations.SkipFlagIsComputedAtDecode : Prop :=
  ∀ w : ControlWord,
    (decodeEntry w).skip = true ↔
      (decodeEntry w).ttt = false ∧ (decodeEntry w).ttm = false ∧ (decodeEntry w).xtr = false ∧
      (decodeEntry w).sop = .zero ∧ ((decodeEntry w).rop = .zero ∨ (decodeEntry w).rop = .wtm) ∧
      ((decodeEntry w).xop = .none ∨ (decodeEntry w).xop = .qb ∨ (decodeEntry w).xop = .cab) ∧
      ((decodeEntry w).aop = .zero ∨ (decodeEntry w).aop = .and ∨ (decodeEntry w).aop = .ior ∨ (decodeEntry w).aop = .xor)

/-- The worked word of R101, the all-ones and the all-zeros word, a derived I/O start, the derived pair of R162, and two I/O
operations, written out from the spec. -/
def Obligations.WrittenOutWordsDecode : Prop :=
  decodeEntry 0x08F14BF =
    { sop := .acc, rop := .unit, xop := .acc, aop := .add, alu := 4, ttt := false, ttm := false, xtr := false, brq := false,
      iqn := false, sc := 15, pm := 0, sm := 1, skip := false } ∧
  decodeEntry 0xFFFFFFF =
    { sop := .acc, rop := .acc, xop := .cab, aop := .iors, alu := 7, ttt := false, ttm := false, xtr := false, brq := true,
      iqn := true, sc := 15, pm := 15, sm := 15, skip := false } ∧
  decodeEntry 0x0000000 =
    { sop := .zero, rop := .zero, xop := .none, aop := .zero, alu := 0, ttt := true, ttm := true, xtr := true, brq := false,
      iqn := false, sc := 0, pm := 0, sm := 0, skip := false } ∧
  decodeEntry 0x080020C =
    { sop := .zero, rop := .ios, xop := .none, aop := .zero, alu := 0, ttt := false, ttm := false, xtr := true, brq := false,
      iqn := false, sc := 0, pm := 0, sm := 1, skip := false } ∧
  decodeEntry 0x0033648 =
    { sop := .zero, rop := .e, xop := .none, aop := .ior, alu := 2, ttt := true, ttm := false, xtr := false, brq := false,
      iqn := false, sc := 3, pm := 0, sm := 0, skip := false } ∧
  decodeQ 0x0605 = .ioStf 5 true ∧ decodeQ 0x04C5 = .ioLi16 5 false ∧ decodeQ 0x07E5 = .ioNopHigh 3 5 true ∧ decodeQ 0x00E5 = .ioAck

/-! ## Reset and construction (spec/10_state.md R60, spec/70_reset_and_hazards.md) -/

/-- R60, R330: the values the spec gives the machine after power-on-preset stand in the reset state. -/
def Obligations.ResetLeavesThePresetValues : Prop :=
  State.reset.csa = 255 ∧ State.reset.arb.bsy = false ∧ State.reset.arb.inh = false ∧ State.reset.arb.ena = false ∧
  State.reset.arb.rdy = false ∧ State.reset.arb.ssf = false ∧ State.reset.arb.stb = 0 ∧ State.reset.arb.sel = 0 ∧
  State.reset.regs.iorByte = false ∧ State.reset.regs.Off ∧ State.reset.buses = Buses.idle

/-- R330, R311, D34: power-on-preset from any state sets exactly what it names; register values, `AB`, `BC`, `DC`, storage, `STP` and the
directory are not touched. Between two cycles it makes the next fetch read entry 255; in the middle of a cycle or of a handshake it is
no transition of the machine (U8), which the model takes as nothing happening (DESIGN CHOICE, log entry 7). -/
def Obligations.PresetSetsWhatItNames : Prop :=
  ∀ s : State,
    ((powerOnPreset s).csa = 255 ∧ (powerOnPreset s).arb.bsy = false ∧ (powerOnPreset s).arb.inh = false ∧
      (powerOnPreset s).arb.ena = false ∧ (powerOnPreset s).arb.rdy = false ∧ (powerOnPreset s).arb.ssf = false ∧
      (powerOnPreset s).arb.stb = 0 ∧ (powerOnPreset s).arb.sel = 0 ∧ (powerOnPreset s).regs.iorByte = false ∧
      (powerOnPreset s).regs.Off ∧ (powerOnPreset s).buses = Buses.idle) ∧
    ((∀ n : RegName, (powerOnPreset s).regs.value n = s.regs.value n) ∧ (powerOnPreset s).ab = s.ab ∧
      (powerOnPreset s).bc = s.bc ∧ (powerOnPreset s).dc = s.dc ∧ (powerOnPreset s).mem = s.mem ∧
      (powerOnPreset s).arb.stp = s.arb.stp ∧ (powerOnPreset s).arb.directory = s.arb.directory ∧
      SameConfiguration s (powerOnPreset s)) ∧
    applyEvent false s (.host .preset) = s ∧
    ∀ rest : List (List ExtEvent), s.hold = none → s.ext.env = [.host .preset] :: rest →
      step s = exec (interleave true s).fetch (interleave true s) ∧
      interleave true s = powerOnPreset { s with ext := { s.ext with env := rest } } ∧ (interleave true s).csa = 255

/-- R331, R333, R334, R234, R235: construction refuses a missing, short, long or malformed dump, a control-store line that has not 28
digits, and a table pair that breaks the decimal law: in a machine that is built, four passes of any `A_ADD` or `A_SUB` opcode over decimal
digits and a carry-in give the digit and the decimal carry of integer arithmetic. That the accumulator bit of the index is the
destination bit in these passes is the model's choice (log entry 16), and so is that the law is asked of the opcodes that the `OPTABLE`
gives the two A-ops and of none where it gives none (log entry 27). -/
def Obligations.ConstructionRefusesDefects : Prop :=
  ∀ (f : RomFiles) (ops : OpSource) (devices : List DirEntry) (init : State),
    (f.cs = none → construct f ops devices init = .error .romMissing) ∧
    (∀ ls, f.cs = some ls → ls.length < 256 → construct f ops devices init = .error .romShort) ∧
    (∀ ls, f.cs = some ls → 256 < ls.length → construct f ops devices init = .error .romLong) ∧
    (∀ ls l, f.cs = some ls → ls.length = 256 → l ∈ ls → lineValue l = none →
      construct f ops devices init = .error .romMalformed) ∧
    (∀ ls l, f.cs = some ls → l ∈ ls → l.length ≠ 28 → ∃ e, construct f ops devices init = .error e) ∧
    (f.alu = none ∨ f.bcd = none → ∃ e, construct f ops devices init = .error e) ∧
    (∀ ls, f.alu = some ls ∨ f.bcd = some ls → ls.length ≠ 256 ∨ (∃ l ∈ ls, lineValue l = none) →
      ∃ e, construct f ops devices init = .error e) ∧
    ∀ t, construct f ops devices init = .ok t →
      ∀ (code : BitVec 3) (op : AOp) (a b : Nat) (c : Bool), t.cfg.opTable.aop code = op → op = .add ∨ op = .sub → a ≤ 9 → b ≤ 9 →
        digitResult t.cfg.aluTable t.cfg.bcdTable op code (BitVec.ofNat 4 a) (BitVec.ofNat 4 b) c =
          (BitVec.ofNat 4 (decimalSum op a b c % 10), decide (10 ≤ decimalSum op a b c))

/-- R99, U4, R346, R227 (a), R244: construction refuses an `OPTABLE` with a gap in any of its columns; an ALU table without an `A_ADD`
opcode of the entries R244 gives, for every operand bit, carry, mode and accumulator bit; and tables under which a skip could be seen: a
`skipOK` A-op whose opcode, with both buses unclaimed, updates the carry or gives a result bit that depends on the carry, the mode or the
accumulator. That it refuses a table without R244's entries is the model's reading of R227's `must` (log entry 26), and that it refuses
one for the carry update the model's choice (log entry 24). -/
def Obligations.ConstructionRefusesUnfitTables : Prop :=
  ∀ (f : RomFiles) (ops : OpSource) (devices : List DirEntry) (init : State),
    (none ∈ ops.s.toList ∨ none ∈ ops.r.toList ∨ none ∈ ops.x.toList ∨ none ∈ ops.a.toList →
      ∃ e, construct f ops devices init = .error e) ∧
    ∀ t, construct f ops devices init = .ok t →
      (∃ code : BitVec 3, t.cfg.opTable.aop code = .add ∧
        ∀ c dm a0 sb rb : Bool, (tableAt t.cfg.aluTable (aluIndex code c dm a0 sb rb)).extractLsb' 0 3 =
          BitVec.ofBool true ++ BitVec.ofBool ((rb && sb) || (rb && c) || (sb && c)) ++ BitVec.ofBool (rb ^^ sb ^^ c)) ∧
      ∀ (code : BitVec 3) (c dm a0 : Bool), (t.cfg.opTable.aop code).skipOK = true →
        (tableAt t.cfg.aluTable (aluIndex code c dm a0 false false)).getLsbD 2 = false ∧
        (tableAt t.cfg.aluTable (aluIndex code c dm a0 false false)).getLsbD 0 =
          (tableAt t.cfg.aluTable (aluIndex code false false false false false)).getLsbD 0

/-- R331, R332: a machine that is constructed stands at its preset, with line `a` of the control-store dump at address `a`, the
devices registered in order, the operations of the supplied `OPTABLE` at their codes, and what no dump supplies as it was given: register
widths and values, `AB`, `BC`, `DC`, `STP`, storage, which cells are writable, and the other parameters. That line `i` of a table dump is
entry `i` of the decoded table, modulo 2^8, is the model's choice (log entry 15), and so is that a supplied `OPTABLE` with a derived
operation at a raw R code is taken as it is (log entry 29) and that a device of code 0 is kept in the directory (log entry 31). -/
def Obligations.ConstructedMachineIsPreset : Prop :=
  ∀ (f : RomFiles) (ops : OpSource) (devices : List DirEntry) (init t : State), construct f ops devices init = .ok t →
    t.csa = 255 ∧ t.arb.bsy = false ∧ t.arb.inh = false ∧ t.arb.ena = false ∧ t.arb.rdy = false ∧ t.arb.ssf = false ∧
    t.arb.stb = 0 ∧ t.arb.sel = 0 ∧ t.regs.iorByte = false ∧ t.AtRest ∧ t.arb.directory = devices ∧ t.mem = init.mem ∧
    t.ab = init.ab ∧ t.bc = init.bc ∧ t.dc = init.dc ∧ t.arb.stp = init.arb.stp ∧ t.rom = init.rom ∧
    t.regs.widths = init.regs.widths ∧ (∀ n : RegName, t.regs.value n = init.regs.value n) ∧
    t.cfg = { init.cfg with
      opTable := t.cfg.opTable, aluTable := t.cfg.aluTable, bcdTable := t.cfg.bcdTable } ∧
    (∀ c : BitVec 2, ops.s[c.toNat] = some (t.cfg.opTable.sop c)) ∧ (∀ c : BitVec 3, ops.r[c.toNat] = some (t.cfg.opTable.rop c)) ∧
    (∀ c : BitVec 3, ops.x[c.toNat] = some (t.cfg.opTable.xop c)) ∧ (∀ c : BitVec 3, ops.a[c.toNat] = some (t.cfg.opTable.aop c)) ∧
    (∀ ls, f.cs = some ls → ∀ a, (h : a < ls.length) →
      ∃ n, lineValue ls[a] = some n ∧ placedWord t.cs a = some (BitVec.ofNat 28 n)) ∧
    (∀ ls, f.alu = some ls → ∀ i : BitVec 8,
      ∃ n, (ls[i.toNat]?).bind lineValue = some n ∧ tableAt t.cfg.aluTable i = BitVec.ofNat 8 n) ∧
    ∀ ls, f.bcd = some ls → ∀ i : BitVec 8,
      ∃ n, (ls[i.toNat]?).bind lineValue = some n ∧ tableAt t.cfg.bcdTable i = BitVec.ofNat 8 n

/-! ## The step -/

/-- R190, R191: a step of the engine that is not held is `exec` of the row MI whose entry is decoded from the word at `CSA`, by the
configured `OPTABLE`, after the other agents' transitions scheduled for the boundary; with none scheduled, at the state itself. -/
def Obligations.StepRunsTheFetchedWord : Prop :=
  ∀ s : State, s.hold = none →
    step s = exec (.mi (decodeEntryBy s.cfg.opTable (interleave true s).fetchWord)) (interleave true s) ∧
    (s.Quiet → step s = exec (.mi (decodeEntryBy s.cfg.opTable s.fetchWord)) s) ∧
    (s.Quiet → s.DefaultOps → step s = exec (decodeWord s.fetchWord) s) ∧
    ∀ w, placedWord s.cs s.csa.toNat = some w → s.fetchWord = w

/-- The model's placing of a program (DESIGN CHOICE, log entry 22: no rule of the spec writes the control store or `Q` so). Placing a
control word where the machine fetches makes the next step run it; placing an I/O operation makes the next step run the I/O start with
that operation in `Q`. -/
def Obligations.PlacedWordRunsNext : Prop :=
  ∀ (s : State) (w : ControlWord) (q : Word), s.Quiet → s.DefaultOps → s.DefaultWidths →
    step (s.withFetchWord 32 w.toNat) = exec (decodeWord w) (s.withFetchWord 32 w.toNat) ∧
    (s.withFetchWord 16 q.toNat).regs.q.word = q ∧
    step (s.withFetchWord 16 q.toNat) = exec (decodeWord 0x000020C) (s.withFetchWord 16 q.toNat)

/-- R300: the step relation is total: no step and no instruction faults or is refused. -/
def Obligations.EngineHasNoFailureStates : Prop :=
  (∀ s : State, ∃ t, step s = .next t) ∧ ∀ (i : Instr) (s : State), ∃ t, exec i s = .next t

/-- R142, R190 to R212: the meaning of a control word is the chain of the meanings of the rows it selects, in the order of the twelve
steps: the pre-load where XTR asks for it and `R_UNITX` does not suppress it, the S-op, the R-op, TTT, TTM, the X-op, IQN at the trip
count, the A-op at every pass, BRQ and the row X_QB at the terminating pass, with the pulses and the commits of `cycleByRows` between
them. A word whose R-op leaves the engine held stops there. The I/O start is the row that `Q` holds (R161). -/
def Obligations.CycleRunsTheRowsItSelects : Prop :=
  ∀ (s : State) (e : Entry), e.wf = true →
    exec (.mi e) s = .next (cycleByRows e s) ∧
    ∀ i, s.ioWord = some i → exec .rIos s = exec i.toInstr s

/-! ## Parts of a word -/

/-- R143 to R146: what each S-op does at step 3. -/
def Obligations.SOpsClaimTheDestinationBus : Prop :=
  ∀ s : State,
    exec .sZero s = .next s ∧
    exec .sM s = .next { s with
      buses := { s.buses with sbus := some (.reg .M) }, regs := { s.regs with m := { s.regs.m with en := true } } } ∧
    exec .sT s = .next { s with
      buses := { s.buses with sbus := some (.reg .T) }, regs := { s.regs with t := { s.regs.t with en := true } } } ∧
    (s.ab = false → exec .sAcc s = .next { s with
      buses := { s.buses with sbus := some (.reg .A) }, regs := { s.regs with a := { s.regs.a with en := true } } }) ∧
    (s.ab = true → exec .sAcc s = .next { s with
      buses := { s.buses with sbus := some (.reg .B) }, regs := { s.regs with b := { s.regs.b with en := true } } })

/-- R149 to R154, R160, R162: what each R-op does at step 3 that claims or declines the source bus and touches no storage. -/
def Obligations.ROpsClaimTheSourceBus : Prop :=
  ∀ s : State,
    exec .rZero s = .next s ∧
    exec .rUnit s = .next { s with
      buses := { s.buses with rbus := some .unit }, cyc := { s.cyc with unitf := true } } ∧
    exec .rUnitx s = .next { s with
      buses := { s.buses with rbus := some .unit }, cyc := { s.cyc with unitf := true } } ∧
    exec .rP s = .next { s with
      buses := { s.buses with rbus := some (.reg .P) }, regs := { s.regs with p := { s.regs.p with en := true } } } ∧
    exec .rQ s = .next { s with
      buses := { s.buses with rbus := some (.reg .Q) }, regs := { s.regs with q := { s.regs.q with en := true } } } ∧
    exec .rTre s = .next { s with
      buses := { s.buses with rbus := some (.reg .E) }
      regs := { s.regs with e := { s.regs.e with src := .reg .T, en := true }, t := { s.regs.t with en := true } } } ∧
    exec .rE s = .next { s with
      buses := { s.buses with rbus := some (.reg .E) }, regs := { s.regs with e := { s.regs.e with en := true } } } ∧
    (s.ab = false → exec .rAcc s = .next { s with
      buses := { s.buses with rbus := some (.reg .A) }, regs := { s.regs with a := { s.regs.a with en := true } } }) ∧
    (s.ab = true → exec .rAcc s = .next { s with
      buses := { s.buses with rbus := some (.reg .B) }, regs := { s.regs with b := { s.regs.b with en := true } } })

/-- R147, R148, R71, R73: the storage operations. `R_RDM` loads `T` from the cell at `M[14:0]` and drives it; `R_WTM` offers `T` to
that cell, which takes it only if it is writable; every other cell reads as before, and nothing else changes. -/
def Obligations.StorageOperationsReachOneCell : Prop :=
  ∀ s : State, s.mem.wf = true →
    exec .rRdm s = .next { s with
      buses := { s.buses with rbus := some (.reg .T) }
      regs := { s.regs with t := { s.regs.t with val := (s.mem.get (s.regs.m.nat % 32768)).setWidth s.regs.t.width, en := true } } } ∧
    ∃ t, exec .rWtm s = .next t ∧ t = { s with mem := t.mem } ∧ t.mem.wf = true ∧
      (s.writable (s.regs.m.nat % 32768) = true → t.mem.get (s.regs.m.nat % 32768) = s.regs.t.word) ∧
      (s.writable (s.regs.m.nat % 32768) = false → t.mem = s.mem) ∧
      ∀ a, a ≠ s.regs.m.nat % 32768 → t.mem.get a = s.mem.get a

/-- R161, R259, R260: the I/O start runs the operation decoded from `Q`. With `Q.IOE` clear it is the acknowledge if a request is
pending, else nothing; with `Q.IOE` set it is the operation of `Q.IOOP` with the select code of `Q.SC5`, and where no addressed device
stays busy the engine is not held. By default these fields are `Q[10]`, `Q[8:5]`, `Q[4:0]`, and `Q.HC` is `Q[9]`. -/
def Obligations.IoStartDispatchesTheQualifierRegister : Prop :=
  ∀ s : State,
    (s.qIoe = false → s.serviceRequested = false → exec .rIos s = .next s) ∧
    (s.qIoe = false → s.serviceRequested = true →
      ∃ t, exec .rIos s = .next t ∧ exec .ioAck s = .next t ∧ t.arb = { s.arb with ssf := true, inh := true, sel := 0 }) ∧
    (s.qIoe = true → s.Quiet → s.hold = none → s.answersBusy s.qSc = false →
      ∃ t, exec .rIos s = .next t ∧ t.hold = none ∧ t.arb.ssf = false ∧ t.arb.sel = s.qSc.setWidth 4 ∧
        (s.holdClear = true → t.arb.rdy = false)) ∧
    (s.qIoe = true → s.qIoop = 6 → exec .rIos s = exec (.ioLi16 s.qSc s.holdClear) s) ∧
    (s.DefaultFields → exec .rIos s = exec (decodeQ s.regs.q.word) s ∧
      s.qIoe = s.regs.q.bit 10 ∧ s.holdClear = s.regs.q.bit 9 ∧
      s.qIoop = s.regs.q.word.extractLsb' 5 4 ∧ s.qSc = s.regs.q.word.extractLsb' 0 5)

/-- R155 to R159, R164 to R166, R207: what each X-op does. -/
def Obligations.XOpsRouteTheComputationBus : Prop :=
  ∀ s : State,
    exec .xNone s = .next s ∧
    exec .xP s = .next { s with regs := { s.regs with p := { s.regs.p with src := .tbus, en := true } } } ∧
    exec .xQ s = .next { s with regs := { s.regs with q := { s.regs.q with src := .tbus, en := true } } } ∧
    exec .xE s = .next { s with regs := { s.regs with e := { s.regs.e with src := .tbus, en := true } } } ∧
    (s.ab = false → exec .xAcc s = .next { s with regs := { s.regs with a := { s.regs.a with src := .tbus, en := true } } }) ∧
    (s.ab = true → exec .xAcc s = .next { s with regs := { s.regs with b := { s.regs.b with src := .tbus, en := true } } }) ∧
    exec .xDec s = .next { s with cyc := { s.cyc with dm := true } } ∧
    exec .xCab s = .next { s with ab := !s.ab } ∧
    ∃ v : BitVec s.regs.q.width,
      exec .xQb s = .next { s with regs := { s.regs with q := { s.regs.q with val := v } } } ∧
      (∀ i, i < s.regs.q.width → v.getLsbD i = if i = s.cfg.qLayout.qb then s.buses.tbus else s.regs.q.bit i) ∧
      (s.DefaultFields → s.cfg.qLayout.qb = 6)

/-- R240 to R247, R229: one evaluation of each A-op under the reference table: the bit on `TBUS`, the tentative carry of the
carry-relevant ones, and whether the carry is updated. -/
def Obligations.AOpsEvaluateTheReferenceTable : Prop :=
  ∀ (s : State) (r d c : Bool), s.cfg.aluTable = refAlu → s.rbit = r → s.sbit = d → s.cyc.cw = c →
    (∀ i ct, (i, ct) ∈ [(Instr.aZero, false), (.aAnd, r && d), (.aIor, r || d), (.aXor, r ^^ d)] →
      ∃ t, exec i s = .next t ∧ t.buses.tbus = ct ∧ t.cyc.ctv = false ∧
        t = { s with buses := { s.buses with tbus := ct }, cyc := { s.cyc with ct := t.cyc.ct, ctv := false, evn := s.cyc.evn + 1 } }) ∧
    exec .aAdd s = .next { s with
      buses := { s.buses with tbus := r ^^ d ^^ c }
      cyc := { s.cyc with ct := (r && d) || (r && c) || (d && c), ctv := true, evn := s.cyc.evn + 1 } } ∧
    exec .aSub s = .next { s with
      buses := { s.buses with tbus := (!r) ^^ d ^^ c }
      cyc := { s.cyc with ct := (!r && d) || (!r && c) || (d && c), ctv := true, evn := s.cyc.evn + 1 } } ∧
    exec .aIorc s = .next { s with
      buses := { s.buses with tbus := r || d }, cyc := { s.cyc with ct := false, ctv := true, evn := s.cyc.evn + 1 } } ∧
    exec .aIors s = .next { s with
      buses := { s.buses with tbus := r || d }, cyc := { s.cyc with ct := true, ctv := true, evn := s.cyc.evn + 1 } }

/-- R167, R168, R169: the destination flags and the pre-load. -/
def Obligations.DestinationFlagsAndPreload : Prop :=
  ∀ s : State,
    exec .ttt s = .next { s with regs := { s.regs with t := { s.regs.t with src := .tbus, en := true } } } ∧
    exec .ttm s = .next { s with regs := { s.regs with m := { s.regs.m with src := .tbus, en := true } } } ∧
    (s.ab = false → exec .xtr s = .next { s with buses := { s.buses with iob := some s.regs.a.word } }) ∧
    (s.ab = true → exec .xtr s = .next { s with buses := { s.buses with iob := some s.regs.b.word } })

/-- R200, R203, R204, R205: the qualifier flags, where no other agent's transition is scheduled. The branch test is the selected
qualifier; the inhibit flag drops the trip count to 0 when the qualifier tests false. By default `CSA[7:4]` selects, among the sixteen
conditions. -/
def Obligations.QualifierFlagsTestTheSelectedCondition : Prop :=
  ∀ s : State,
    (s.Quiet → exec .brq s = .next { s with cyc := { s.cyc with brt := s.qual s.qsel } }) ∧
    (s.Quiet → s.qual s.qsel = true → exec .iqn s = .next s) ∧
    (s.Quiet → s.qual s.qsel = false → exec .iqn s = .next { s with cyc := { s.cyc with trip := 0 } }) ∧
    (s.DefaultTests → s.qsel = s.csa.extractLsb' 4 4 ∧ s.qual 0 = s.regs.q.bit 15 ∧ s.qual 1 = s.regs.q.bit 14 ∧
      s.qual 2 = s.regs.q.bit 13 ∧
    s.qual 3 = s.regs.q.bit 12 ∧ s.qual 4 = s.regs.q.bit 11 ∧ s.qual 5 = s.regs.q.bit 10 ∧
    s.qual 6 = s.regs.q.bit 9 ∧ s.qual 7 = s.regs.q.bit s.cfg.qLayout.qb ∧ s.qual 8 = s.regs.q.bit 0 ∧
    s.qual 9 = s.bc ∧ s.qual 10 = s.dc ∧ s.qual 11 = s.serviceRequested ∧ s.qual 12 = s.ab ∧
    s.qual 13 = s.regs.p.bit 0 ∧ s.qual 14 = s.arb.rdy ∧
    s.qual 15 = (if s.ab then s.regs.b.bit 0 else s.regs.a.bit 0))

/-! ## The bit register (spec/40_bit_register.md) -/

/-- R127: after `k` pulses from a source of the same width that rotates in place, the `k` low bits of the source stand in the `k` high bits
of the receiver, whose old high bits moved down; after exactly `N` pulses the receiver holds the source, and the source itself again. -/
def Obligations.SerialTransferMovesLowBitsFirst : Prop :=
  ∀ (k : Nat) (x r : BitReg), x.width = r.width → x.en = true → r.en = true →
    (k ≤ r.width → (feedPulses k (x, r)).2.nat = x.nat % 2 ^ k * 2 ^ (r.width - k) + r.nat / 2 ^ k) ∧
    (feedPulses r.width (x, r)).2.nat = x.nat ∧ (feedPulses r.width (x, r)).1.nat = x.nat ∧
    (feedPulses k (x, r)).2.width = r.width ∧ (feedPulses k (x, r)).1.width = x.width

/-- R128: two registers of equal width bound to each other exchange their low bits in one pulse, and their values after `N` pulses. -/
def Obligations.CrossWiredRegistersExchange : Prop :=
  ∀ (w : Nat) (a b : BitReg), a.width = w + 1 → b.width = w + 1 → a.en = true → b.en = true →
    (crossPulses 1 (a, b)).1.nat = (b.nat % 2) * 2 ^ w + a.nat / 2 ∧
    (crossPulses 1 (a, b)).2.nat = (a.nat % 2) * 2 ^ w + b.nat / 2 ∧
    (crossPulses (w + 1) (a, b)).1.nat = b.nat ∧ (crossPulses (w + 1) (a, b)).2.nat = a.nat

/-- R123 to R125, R131, R206, R340: a pulse of the register file is two-phase. Every register that is enabled latches the bit its
source held in the file before the pulse and shifts it in at its top (`IOR`, with its selector set, at the top of its low byte); every
other keeps value and latch; no binding changes. So cross-wired accumulators exchange their low bits, whatever the other registers do. That
an `IOR` of fewer than 8 bits shifts whole although its selector is set is the model's choice (DESIGN CHOICE, log entry 6: R131 does not
give it). -/
def Obligations.PulseOfTheRegisterFileIsTwoPhase : Prop :=
  ∀ (r : Regs) (tbus : Bool),
    (∀ n : RegName,
      (r.pulse allRegs tbus).binding n = r.binding n ∧
      ((r.binding n).2 = true →
        (r.pulse allRegs tbus).latch n = r.sourceBit tbus (r.binding n).1 ∧
        ∀ i, i < r.widths.of n → (r.pulse allRegs tbus).bit i n =
          if n = .IOR ∧ r.iorByte = true ∧ 7 ≤ i then (if i = 7 then r.sourceBit tbus (r.binding n).1 else r.bit i n)
          else if i + 1 = r.widths.of n then r.sourceBit tbus (r.binding n).1 else r.bit (i + 1) n) ∧
      ((r.binding n).2 = false →
        (r.pulse allRegs tbus).latch n = r.latch n ∧ ∀ i, (r.pulse allRegs tbus).bit i n = r.bit i n)) ∧
    (r.pulse allRegs tbus).iorByte = r.iorByte ∧ (r.pulse allRegs tbus).widths = r.widths ∧
    (r.a.src = .reg .B → r.b.src = .reg .A → r.a.en = true → r.b.en = true →
      (r.pulse allRegs tbus).a = (crossPulses 1 (r.a, r.b)).1 ∧ (r.pulse allRegs tbus).b = (crossPulses 1 (r.a, r.b)).2)

/-- R120 to R123, R130, R131: a tap register is created bound to itself and off; its operations bind and enable it and nothing else; its
shift writes bit `k` alone, with the latched bit, and its output bit is bit `k`; a pulse takes the bit of its source, and bound to itself
leaves the value. With the byte selector set, `IOR` rotates its low byte only. -/
def Obligations.SpecializedRegistersShiftTheirPart : Prop :=
  (∀ (w : Nat) (r : TapReg w) (i : Nat) (regs : Regs) (tbus on : Bool) (x : TapSource),
    (TapReg.create r.tap r.val r.lat).src = .self ∧ (TapReg.create r.tap r.val r.lat).en = false ∧
    r.setSource x = { r with src := x } ∧ r.shiftEnable on = { r with en := on } ∧
    (r.en = true → r.shift.val.getLsbD i = if i = r.tap.val then r.lat else r.val.getLsbD i) ∧
    (r.en = false → r.shift = r ∧ r.pulse regs tbus = r) ∧ r.outBit = r.val.getLsbD r.tap.val ∧
    (r.src = .self → (r.pulse regs tbus).val = r.val) ∧
    (∀ y, r.en = true → r.src = .core y → (r.pulse regs tbus).outBit = regs.sourceBit tbus y)) ∧
  ∀ r : BitReg, 8 ≤ r.width → r.en = true →
    (r.shiftSel true).nat / 256 = r.nat / 256 ∧
    (r.shiftSel true).nat % 256 = (if r.lat then 128 else 0) + r.nat % 256 / 2 ∧
    (r.shiftSel false).nat = (if r.lat then 2 ^ (r.width - 1) else 0) + r.nat / 2

/-! ## Whole control words -/

/-- R190, R210, R211, R212: a control word completes its cycle: the next address is the current one XOR both modifiers, with the low bit
of the secondary one dropped where a branch test fails, and the machine is between cycles again. A word with the I/O start does so
where no addressed device stays busy. -/
def Obligations.ControlWordCompletes : Prop :=
  ∀ (s : State) (e : Entry), s.hold = none →
    e.rop ≠ .ios ∨ (s.Quiet ∧ s.answersBusy s.qSc = false) →
    ∃ t, exec (.mi e) s = .next t ∧ t.AtRest ∧
      (e.brq = false → t.csa = s.csa ^^^ (e.pm ++ e.sm)) ∧
      (e.brq = true → t.csa = s.csa ^^^ (e.pm ++ e.sm) ∨ t.csa = s.csa ^^^ (e.pm ++ (e.sm &&& 0b1110)))

/-- R200, R348: the hold condition: an I/O start with `Q.HC` set makes no pulse of the shift loop, so that no register but those the
I/O operation itself writes moves, whatever the word's other operations and flags: an operation that transfers nothing leaves the
accumulators (but for the decimal digit of `X_DEC`, R209), `IOR` and `AUX`; only IO_SFC and IO_SFS write `BC`, with what they report. -/
def Obligations.HoldConditionMakesNoPulse : Prop :=
  ∀ (s : State) (e : Entry), s.AtRest → s.Quiet → s.answersBusy s.qSc = false →
    e.rop = .ios → s.holdClear = true →
    ∃ t, exec (.mi e) s = .next t ∧ t.regs.t.nat = s.regs.t.nat ∧ t.regs.m.nat = s.regs.m.nat ∧
      t.regs.p.nat = s.regs.p.nat ∧ t.regs.e.nat = s.regs.e.nat ∧
      (∀ i, i ≠ s.cfg.qLayout.qb ∨ e.xop ≠ .qb → t.regs.q.bit i = s.regs.q.bit i) ∧ t.mem = s.mem ∧
      (s.qIoe = false ∨ (s.qIoop ≠ 5 ∧ s.qIoop ≠ 6 ∧ s.qIoop ≠ 7 ∧ s.qIoop ≠ 8) →
        t.regs.aux.nat = s.regs.aux.nat ∧
        (e.xop ≠ .dec → t.regs.a.nat = s.regs.a.nat ∧ t.regs.b.nat = s.regs.b.nat) ∧
        (s.qIoe = true ∨ s.serviceRequested = false → t.regs.ior.nat = s.regs.ior.nat)) ∧
      (s.cfg.carryCommit = .working →
        (s.qIoe = false ∨ (s.qIoop ≠ 1 ∧ s.qIoop ≠ 4) → t.bc = s.bc) ∧
        (s.qIoe = true → s.qIoop = 1 → t.bc = !(if s.addressed s.qSc = [] then s.cfg.absentReady else s.arb.rdy)) ∧
        (s.qIoe = true → s.qIoop = 4 → t.bc = (if s.addressed s.qSc = [] then s.cfg.absentReady else s.arb.rdy)))

/-- R205, R210, R211, R345, R263, R266: what a branch request sees. `BC`, `DC` and `Q[6]` as they were before this instruction's commit
(`Q[6]` after `Q`'s own rotation, where `Q` is the source; `BC` as IO_SFC or IO_SFS wrote it, where the word starts one), every other
condition as the cycle leaves it; for the default qualifiers, fields and widths. A word with the I/O start branches so where it does not
leave the engine held. -/
def Obligations.BranchTestSeesRegistersAfterThePulses : Prop :=
  ∀ (s : State) (e : Entry) (f c : Bool), s.AtRest → s.Quiet → s.DefaultTests → s.DefaultFields → s.DefaultWidths → e.wf = true →
    e.brq = true → e.rop ≠ .ios ∨ s.StartsUnheld →
    f = (if s.addressed s.qSc = [] then s.cfg.absentReady else s.arb.rdy) →
    c = (if e.rop = .ios ∧ s.qIoe = true ∧ s.qIoop = 1 then !f else if e.rop = .ios ∧ s.qIoe = true ∧ s.qIoop = 4 then f else s.bc) →
    ∃ t, exec (.mi e) s = .next t ∧
      t.csa = s.csa ^^^ (e.pm ++
        (if (if s.csa.extractLsb' 4 4 = 9 then c else if s.csa.extractLsb' 4 4 = 10 then s.dc
             else if s.csa.extractLsb' 4 4 = 7 ∧ e.xop = .qb then
               (if e.rop = .q ∧ (e.iqn = false ∨ s.regs.q.bit 6 = true)
                then s.regs.q.bit ((e.sc.toNat + 7) % 16) else s.regs.q.bit 6)
             else t.qual (s.csa.extractLsb' 4 4))
         then e.sm else e.sm &&& 0b1110))

/-- The frame of a control word without I/O start (R141 to R172, R207 to R209): the registers, latches and cells that none of its
operations names keep their values. -/
def Obligations.ControlWordFrame : Prop :=
  ∀ (s : State) (e : Entry), s.AtRest → e.rop ≠ .ios →
    ∃ t, exec (.mi e) s = .next t ∧
      (e.rop ≠ .p → e.xop ≠ .p → t.regs.p.nat = s.regs.p.nat) ∧
      (e.sop ≠ .m → e.ttm = false → t.regs.m.nat = s.regs.m.nat) ∧
      (e.rop ≠ .tre → e.rop ≠ .e → e.xop ≠ .e → t.regs.e.nat = s.regs.e.nat) ∧
      (e.sop ≠ .t → e.rop ≠ .tre → e.rop ≠ .rdm → e.ttt = false → t.regs.t.nat = s.regs.t.nat) ∧
      (e.rop ≠ .q → e.xop ≠ .q → e.xop ≠ .qb → t.regs.q.nat = s.regs.q.nat) ∧
      t.regs.ior.nat = s.regs.ior.nat ∧ t.regs.aux.nat = s.regs.aux.nat ∧ t.regs.iorByte = s.regs.iorByte ∧
      (s.ab = true ∨ (e.sop ≠ .acc ∧ e.rop ≠ .acc ∧ e.xop ≠ .acc ∧ e.xop ≠ .dec) → t.regs.a.nat = s.regs.a.nat) ∧
      (s.ab = false ∨ (e.sop ≠ .acc ∧ e.rop ≠ .acc ∧ e.xop ≠ .acc ∧ e.xop ≠ .dec) → t.regs.b.nat = s.regs.b.nat) ∧
      t.ab = (if e.xop = .cab then !s.ab else s.ab) ∧
      (e.xop ≠ .dec → t.dc = s.dc) ∧ (e.xop = .dec → t.bc = s.bc) ∧
      (s.ReferenceAlu → e.wf = true → (e.aop = .zero ∨ e.aop = .and ∨ e.aop = .ior ∨ e.aop = .xor) → t.bc = s.bc) ∧
      (e.rop ≠ .wtm → t.mem = s.mem) ∧
      (∀ a, a ≠ s.regs.m.nat % 32768 → t.mem.get a = s.mem.get a) ∧
      SameConfiguration s t ∧ t.ext.answers = s.ext.answers ∧ t.ext.calls = s.ext.calls ∧
      (s.Quiet ∨ e.brq = false ∧ e.iqn = false → t.arb = s.arb ∧ t.ext = s.ext)

/-- R237, R244, R245, R208, R344: addition and subtraction of `k = SC + 1` pulses, the accumulator on the destination bus and `Q` on
the source bus. The `k`-bit result enters the top of the accumulator (and of `T` and `M` where their flags are set), `BC` is the carry
out of bit `k - 1`, and `Q` is rotated by `k`. -/
def Obligations.SerialSumOfTheLowBits : Prop :=
  ∀ (s : State) (e : Entry) (k sum : Nat), s.AtRest → s.ReferenceAlu → s.DefaultWidths → e.wf = true →
    e.sop = .acc → e.rop = .q → e.xop = .acc → e.aop = .add ∨ e.aop = .sub → s.loopRuns e → k = e.sc.toNat + 1 →
    sum = serialSum e.aop k s.acc.nat s.regs.q.nat s.bc.toNat →
    ∃ t, exec (.mi e) s = .next t ∧
      t.acc.nat = shiftedIn k sum s.acc.nat ∧ t.bc = decide (2 ^ k ≤ sum) ∧
      t.regs.q.word = s.regs.q.word.rotateRight k ∧
      (e.ttt = true → t.regs.t.nat = shiftedIn k sum s.regs.t.nat) ∧
      (e.ttm = true → t.regs.m.nat = shiftedIn k sum s.regs.m.nat)

/-- R240 to R243, R246, R247, R208: the A-ops that form no sum, over `k = SC + 1` pulses, with what they leave in `BC`. -/
def Obligations.SerialLogicOfTheLowBits : Prop :=
  ∀ (s : State) (e : Entry) (k : Nat) (v : Word), s.AtRest → s.ReferenceAlu → s.DefaultWidths → e.wf = true →
    e.sop = .acc → e.rop = .q → e.xop = .acc → e.aop ≠ .add → e.aop ≠ .sub → s.loopRuns e → k = e.sc.toNat + 1 →
    v = bitwiseResult e.aop s.regs.q.word s.acc.word →
    ∃ t, exec (.mi e) s = .next t ∧
      t.acc.nat = shiftedIn k v.toNat s.acc.nat ∧ t.bc = bitwiseCarry e.aop s.bc ∧
      t.regs.q.word = s.regs.q.word.rotateRight k ∧
      (e.ttt = true → t.regs.t.nat = shiftedIn k v.toNat s.regs.t.nat) ∧
      (e.ttm = true → t.regs.m.nat = shiftedIn k v.toNat s.regs.m.nat)

/-- R149 to R157, R159, R164, R167, R168, R242: the move forms. With one bus unclaimed, `A_IOR` and 16 pulses, the value on the other
bus arrives in every register that receives the computation bus (its top digit in `E`), and the source keeps its value (`Q` but for the
bit that `X_QB` commits). -/
def Obligations.MoveThroughOneBus : Prop :=
  ∀ (s : State) (e : Entry) (v : Word), s.AtRest → s.ReferenceAlu → s.DefaultWidths → e.wf = true → e.aop = .ior → e.sc = 15 →
    e.xop ≠ .dec → s.loopRuns e →
    (e.sop = .zero ∧ (e.rop = .p ∧ v = s.regs.p.word ∨ e.rop = .q ∧ v = s.regs.q.word ∨ e.rop = .acc ∧ v = s.acc.word)) ∨
      (e.rop = .zero ∧ (e.sop = .m ∧ v = s.regs.m.word ∨ e.sop = .t ∧ v = s.regs.t.word ∨ e.sop = .acc ∧ v = s.acc.word)) →
    ∃ t, exec (.mi e) s = .next t ∧
      (e.ttt = true → t.regs.t.word = v) ∧ (e.ttm = true → t.regs.m.word = v) ∧ (e.xop = .p → t.regs.p.word = v) ∧
      (e.xop = .q → t.regs.q.word = v) ∧ (e.xop = .acc → t.acc.word = v) ∧ (e.xop = .e → t.regs.e.digit = v.extractLsb' 12 4) ∧
      (e.sop = .m → t.regs.m.word = v) ∧ (e.sop = .t → t.regs.t.word = v) ∧ (e.rop = .p → t.regs.p.word = v) ∧
      (e.rop = .q → e.xop ≠ .qb → t.regs.q.word = v) ∧
      (e.sop = .acc ∨ e.rop = .acc → (if s.ab then t.regs.b.word else t.regs.a.word) = v) ∧ t.bc = s.bc

/-- R144 to R146, R150, R156, R160, R244: counting forms. The unit constant added to `M`, `T` or the accumulator adds one and the
carry; `P` with an unclaimed destination bus adds the carry alone. -/
def Obligations.UnitConstantIncrements : Prop :=
  ∀ (s : State) (e : Entry), s.AtRest → s.ReferenceAlu → s.DefaultWidths → e.wf = true → e.aop = .add → e.sc = 15 → s.loopRuns e →
    (e.rop = .unit ∨ e.rop = .unitx →
      (e.sop = .m → e.ttm = true → e.xop = .none →
        ∃ t, exec (.mi e) s = .next t ∧ t.regs.m.word = s.regs.m.word + 1 + (BitVec.ofBool s.bc).setWidth 16 ∧
          t.bc = decide (2 ^ 16 ≤ s.regs.m.nat + 1 + s.bc.toNat)) ∧
      (e.sop = .t → e.ttt = true → e.xop = .none →
        ∃ t, exec (.mi e) s = .next t ∧ t.regs.t.word = s.regs.t.word + 1 + (BitVec.ofBool s.bc).setWidth 16 ∧
          t.bc = decide (2 ^ 16 ≤ s.regs.t.nat + 1 + s.bc.toNat)) ∧
      (e.sop = .acc → e.xop = .acc →
        ∃ t, exec (.mi e) s = .next t ∧ t.acc.word = s.acc.word + 1 + (BitVec.ofBool s.bc).setWidth 16 ∧
          t.bc = decide (2 ^ 16 ≤ s.acc.nat + 1 + s.bc.toNat))) ∧
    (e.sop = .zero → e.rop = .p → e.xop = .p →
      ∃ t, exec (.mi e) s = .next t ∧ t.regs.p.word = s.regs.p.word + (BitVec.ofBool s.bc).setWidth 16 ∧
        t.bc = decide (2 ^ 16 ≤ s.regs.p.nat + s.bc.toNat))

/-- R152: transfer-through-E over 16 pulses: the bus carries the old `E` and then `T` delayed by four pulses, so what it feeds takes
`T` shifted left by one digit with `E` entering below, and `E` takes the digit shifted out. -/
def Obligations.TransferThroughEShiftsOneDigit : Prop :=
  ∀ (s : State) (e : Entry) (v : Word), s.AtRest → s.ReferenceAlu → s.DefaultWidths → e.wf = true → e.sop = .zero → e.rop = .tre →
    e.aop = .ior →
    e.sc = 15 → e.xop ≠ .dec → s.loopRuns e → v = s.regs.t.word.extractLsb' 0 12 ++ s.regs.e.digit →
    ∃ t, exec (.mi e) s = .next t ∧ t.regs.e.digit = s.regs.t.word.extractLsb' 12 4 ∧
      t.regs.t.word = (if e.ttt then v else s.regs.t.word) ∧ (e.ttm = true → t.regs.m.word = v) ∧
      (e.xop = .acc → t.acc.word = v) ∧ (e.xop = .p → t.regs.p.word = v) ∧ (e.xop = .q → t.regs.q.word = v)

/-- R162, R164: `E` by digits. The derived pair drives `E` out into the top of `T` and leaves `E`; `X_E` takes the accumulator's low
digit into `E`. -/
def Obligations.DigitsMoveInAndOutOfE : Prop :=
  ∀ (s : State) (e : Entry), s.AtRest → s.ReferenceAlu → s.DefaultWidths → e.wf = true → e.aop = .ior → e.sc = 3 → s.loopRuns e →
    (e.sop = .zero → e.rop = .e → e.ttt = true →
      ∃ t, exec (.mi e) s = .next t ∧ t.regs.t.word = s.regs.e.digit ++ s.regs.t.word.extractLsb' 4 12 ∧ t.regs.e.nat = s.regs.e.nat) ∧
    (e.sop = .acc → e.rop = .zero → e.xop = .e →
      ∃ t, exec (.mi e) s = .next t ∧ t.regs.e.digit = s.acc.word.extractLsb' 0 4 ∧ t.acc.word = s.acc.word.rotateRight 4)

/-- R147, R148, R344: storage through a whole cycle. A read leaves `T` with the cell at `M[14:0]` rotated by the pulses, and storage as
it was; a write leaves the old `T` in that cell, if it is writable. -/
def Obligations.StorageThroughTheCycle : Prop :=
  ∀ (s : State) (e : Entry), s.AtRest → s.mem.wf = true →
    (e.rop = .rdm → e.ttt = false → s.DefaultWidths → s.loopRuns e → e.skip = false →
      ∃ t, exec (.mi e) s = .next t ∧
        t.regs.t.word = (s.mem.get (s.regs.m.nat % 32768)).rotateRight (e.sc.toNat + 1) ∧ t.mem = s.mem) ∧
    (e.rop = .wtm →
      ∃ t, exec (.mi e) s = .next t ∧
        ∀ a, t.mem.get a =
          if a = s.regs.m.nat % 32768 ∧ s.writable a = true then s.regs.t.word else s.mem.get a)

/-- R165, R207, R158: the special case commits the last computation-bus bit into `Q[QB_POS]` even where the loop is skipped, and no other
bit of `Q`; `X_CAB` toggles the flip-flop once. -/
def Obligations.SpecialCaseWritesOneQualifierBit : Prop :=
  ∀ (s : State) (e : Entry), s.AtRest → s.ReferenceAlu → e.wf = true →
    (e.xop = .qb → e.rop = .zero → e.sop = .acc → e.aop = .ior →
      ∃ t, exec (.mi e) s = .next t ∧
        ∀ i, i < s.regs.q.width →
          t.regs.q.bit i = if i = s.cfg.qLayout.qb then t.acc.bit 0 else s.regs.q.bit i) ∧
    (e.xop = .qb → e.rop = .zero → e.aop = .zero →
      ∃ t, exec (.mi e) s = .next t ∧
        ∀ i, i < s.regs.q.width → t.regs.q.bit i = if i = s.cfg.qLayout.qb then false else s.regs.q.bit i) ∧
    (e.xop = .cab → e.rop ≠ .ios → ∃ t, exec (.mi e) s = .next t ∧ t.ab = !s.ab)

/-- R200, R205, R208: an inhibited loop. Where the inhibit flag is set and the qualifier tests false, no pulse is made: no register
moves and the binary carry stays. -/
def Obligations.InhibitedLoopMovesNoRegister : Prop :=
  ∀ (s : State) (e : Entry), s.AtRest → s.ReferenceAlu → s.Quiet → e.iqn = true → s.qual s.qsel = false →
    e.rop ≠ .ios → e.rop ≠ .rdm → e.xop ≠ .qb → e.xop ≠ .dec → e.xop ≠ .cab →
    ∃ t, exec (.mi e) s = .next t ∧ (∀ n : RegName, t.regs.value n = s.regs.value n) ∧ t.bc = s.bc ∧ t.ab = s.ab

/-- R171, R346: shift-skip is invisible in one control word under the reference table. -/
def Obligations.ShiftSkipIsInvisible : Prop :=
  ∀ (s : State) (e : Entry), s.AtRest → s.cfg.aluTable = refAlu → e.wf = true →
    exec (.mi e) s = exec (.mi { e with skip := false }) s

/-- R171: forcing shift-skip off changes no run: from every state that meets the invariant, under every pair of `OPTABLE` and `ALU_TABLE`
that passes the check of construction (the default pair does), any number of steps ends in the same state. -/
def Obligations.RunsWithoutShiftSkipAgree : Prop :=
  ∀ (n : Nat) (s : State), s.Inv → skipCheck s.cfg.opTable s.cfg.aluTable = true → core.run n s = coreWithoutSkip.run n s

/-! ## Decimal mode -/

/-- R234: the decimal law through the engine: with decimal digits in the low nibbles of the accumulator and of `Q`, four pulses in
decimal mode leave the law's digit in `ACC[15:12]` above the rotated rest, the decimal carry in `DC`, and `BC` as it was. -/
def Obligations.DecimalLawHoldsThroughTheEngine : Prop :=
  ∀ (s : State) (e : Entry) (a b sum : Nat), s.AtRest → s.ReferenceAlu → s.cfg.bcdTable = refBcd → s.DefaultWidths → e.wf = true →
    e.sop = .acc → e.rop = .q → e.xop = .dec → e.aop = .add ∨ e.aop = .sub → e.sc = 3 → s.loopRuns e →
    a = s.acc.nat % 16 → b = s.regs.q.nat % 16 → a ≤ 9 → b ≤ 9 → sum = decimalSum e.aop a b s.dc →
    ∃ t, exec (.mi e) s = .next t ∧
      t.acc.word = BitVec.ofNat 4 (sum % 10) ++ s.acc.word.extractLsb' 4 12 ∧ t.dc = decide (10 ≤ sum) ∧ t.bc = s.bc ∧
      t.regs.q.word = s.regs.q.word.rotateRight 4

/-- R209, R150: with the unit-source flag the corrected digit is not committed, and the decimal carry is. -/
def Obligations.UnitSourceKeepsTheAccumulator : Prop :=
  ∀ (s : State) (e : Entry), s.AtRest → s.ReferenceAlu → s.cfg.bcdTable = refBcd → e.wf = true →
    e.sop = .zero → e.rop = .unit ∨ e.rop = .unitx → e.xop = .dec → e.aop = .add → e.sc = 3 → s.loopRuns e →
    ∃ t, exec (.mi e) s = .next t ∧ t.regs.a.nat = s.regs.a.nat ∧ t.regs.b.nat = s.regs.b.nat ∧ t.dc = false ∧ t.bc = s.bc

/-- R227, R234, R235, R346: the reference tables have an `A_ADD` with the entries of R244, show no shift-skip, and pass the decimal
self-check of all 400 cases. -/
def Obligations.ReferenceTablesPassTheDecimalCheck : Prop :=
  additionCheck defaultOps refAlu = true ∧ skipCheck defaultOps refAlu = true ∧ decimalCheck defaultOps refAlu refBcd = true

/-! ## The arbiter (spec/44_io_arbiter.md) -/

/-- R256 to R259, R308, R281: the service-request predicate, and the acknowledge, the row IO_ACK: with a request pending exactly the
acknowledge sequence, and then the bus read presents the strobe vector; with none pending nothing. -/
def Obligations.AcknowledgeTouchesNothingElse : Prop :=
  ∀ s : State,
    (s.serviceRequested = true ↔ s.arb.ssf = false ∧ ((s.arb.inh = false ∧ s.arb.stb ≠ 0) ∨ s.arb.stp = true)) ∧
    (s.serviceRequested = false → exec .ioAck s = .next s) ∧
    (s.serviceRequested = true → s.cfg.exposeStrobes = true →
      ∃ t, exec .ioAck s = .next t ∧ t.iobValue = s.arb.stb.setWidth 16 ∧
        t = { s with
          arb := { s.arb with ssf := true, inh := true, sel := 0 }
          buses := { s.buses with iob := some (s.arb.stb.setWidth 16) }
          regs := { s.regs with ior := { s.regs.ior with val := s.arb.stb.setWidth s.regs.ior.width } } }) ∧
    (s.serviceRequested = true → s.cfg.exposeStrobes = false →
      exec .ioAck s = .next { s with
          arb := { s.arb with ssf := true, inh := true, sel := 0 }
          regs := { s.regs with ior := { s.regs.ior with val := s.iobValue.setWidth s.regs.ior.width } } })

/-- R259, R262, R265, R271 to R273: the operations without a handshake or a skip: the common entry, their one latch, and the trailing
clear-flag where the hold/clear bit is set; other agents' transitions scheduled after the entry block come between. -/
def Obligations.LatchOperations : Prop :=
  ∀ (s u : State) (sc : BitVec 5) (hc : Bool) (c1 : BitVec 1) (c2 : BitVec 2),
    u = interleave false { s with arb := { s.arb with ssf := false, sel := sc.setWidth 4 } } →
    exec (.ioStf sc hc) s = .next { u with arb := { u.arb with rdy := !hc } } ∧
    exec (.ioClc sc hc) s = .next { u with arb := { u.arb with ena := false, rdy := u.arb.rdy && !hc } } ∧
    exec (.ioEow sc hc) s = .next { u with
      arb := { u.arb with inh := false, rdy := u.arb.rdy && !hc }, regs := { u.regs with iorByte := false } } ∧
    exec (.ioNopLow c1 sc hc) s = .next { u with arb := { u.arb with rdy := u.arb.rdy && !hc } } ∧
    exec (.ioNopHigh c2 sc hc) s = .next { u with arb := { u.arb with rdy := u.arb.rdy && !hc } } ∧
    exec .ioClf s = .next { s with arb := { s.arb with rdy := false } }

/-- R253, R255, R263, R266: the skip operations report in `BC`; an absent device reads as the configured `ABSENT_READY`. -/
def Obligations.SkipOperationsReportInTheCarry : Prop :=
  ∀ (s u : State) (sc : BitVec 5) (hc f : Bool),
    u = interleave false { s with arb := { s.arb with ssf := false, sel := sc.setWidth 4 } } →
    f = (if lookupDevices u.arb.directory u.arb.sel = [] then u.cfg.absentReady else u.arb.rdy) →
    exec (.ioSfc sc hc) s = .next { u with bc := !f, arb := { u.arb with rdy := u.arb.rdy && !hc } } ∧
    exec (.ioSfs sc hc) s = .next { u with bc := f, arb := { u.arb with rdy := u.arb.rdy && !hc } }

/-- R252: the directory lookup: the entries of a select code in registration order, none for select code 0. -/
def Obligations.LookupKeepsRegistrationOrder : Prop :=
  ∀ (dir : List DirEntry) (k : SelectCode) (d : DirEntry),
    lookupDevices dir 0 = [] ∧ (lookupDevices dir k).Sublist dir ∧
    (d ∈ lookupDevices dir k ↔ d ∈ dir ∧ d.code = k ∧ k ≠ 0)

/-- R264, R275, R253: set-control: the control latch, then every addressed device is offered `IOB` in registration order. A device
that stays busy leaves `BSY` up and the engine held; an absent one starts no handshake. -/
def Obligations.SetControlOffersTheSharedBus : Prop :=
  ∀ (s : State) (sc : BitVec 5) (hc : Bool), s.Quiet → s.hold = none →
    ∃ t, exec (.ioStc sc hc) s = .next t ∧ SameEngine s t ∧ SameConfiguration s t ∧
      t.arb.ena = true ∧ t.arb.ssf = false ∧ t.arb.sel = sc.setWidth 4 ∧ t.arb.bsy = s.answersBusy sc ∧
      t.ext.calls = s.offeredTo sc s.iobValue ∧ t.ext.answers = s.ext.answers.drop (s.addressed sc).length ∧
      t.hold = (if s.answersBusy sc then some { post := .none, clf := hc } else none) ∧
      t.arb.rdy = (s.arb.rdy && !(hc && !s.answersBusy sc)) ∧
      t.arb.inh = s.arb.inh ∧ t.arb.stb = s.arb.stb ∧ t.arb.stp = s.arb.stp ∧ t.arb.directory = s.arb.directory

/-- R267, R268, R274, R275, R253: the load operations, where no addressed device stays busy: `IOR` is the OR of what the devices drive
(0 if none is there), and the accumulator takes its low byte into its high byte, or all of it. -/
def Obligations.LoadOperationsFillTheAccumulator : Prop :=
  ∀ (s : State) (sc : BitVec 5) (hc : Bool) (v : Word), s.Quiet → s.DefaultWidths → s.hold = none → s.answersBusy sc = false →
    v = s.inputWord sc →
    (∃ t, exec (.ioLi8 sc hc) s = .next t ∧
      t.regs.ior.word = v ∧ t.acc.word = v.extractLsb' 0 8 ++ s.acc.word.extractLsb' 8 8 ∧ t.regs.iorByte = true ∧
      t.arb = { s.arb with ssf := false, sel := sc.setWidth 4, bsy := false, rdy := s.arb.rdy && !hc } ∧ t.hold = none ∧
      t.ext.calls = s.askedOf sc ∧
      (∀ n : RegName, n ≠ s.accName → n ≠ .IOR → t.regs.value n = s.regs.value n) ∧
      t.csa = s.csa ∧ t.ab = s.ab ∧ t.bc = s.bc ∧ t.dc = s.dc ∧ t.mem = s.mem ∧ SameConfiguration s t) ∧
    (∃ t, exec (.ioLi16 sc hc) s = .next t ∧
      t.regs.ior.word = v ∧ t.acc.word = v ∧ t.regs.iorByte = false ∧
      t.arb = { s.arb with ssf := false, sel := sc.setWidth 4, bsy := false, rdy := s.arb.rdy && !hc } ∧ t.hold = none ∧
      t.ext.calls = s.askedOf sc ∧
      (∀ n : RegName, n ≠ s.accName → n ≠ .IOR → t.regs.value n = s.regs.value n) ∧
      t.csa = s.csa ∧ t.ab = s.ab ∧ t.bc = s.bc ∧ t.dc = s.dc ∧ t.mem = s.mem ∧ SameConfiguration s t)

/-- R267, R268, R275: a load whose device stays busy leaves the engine held with `BSY` up, the accumulator and `IOR` as they were. -/
def Obligations.BusyLoadHoldsTheEngine : Prop :=
  ∀ (s : State) (sc : BitVec 5) (hc : Bool), s.Quiet → s.answersBusy sc = true →
    (∃ t, exec (.ioLi8 sc hc) s = .next t ∧ t.hold = some { post := .load8, clf := hc } ∧ t.arb.bsy = true ∧
      (∀ n : RegName, t.regs.value n = s.regs.value n) ∧ t.buses.iob = some (s.inputWord sc) ∧ step t = .next t) ∧
    (∃ t, exec (.ioLi16 sc hc) s = .next t ∧ t.hold = some { post := .load16, clf := hc } ∧ t.arb.bsy = true ∧
      (∀ n : RegName, t.regs.value n = s.regs.value n) ∧ t.buses.iob = some (s.inputWord sc) ∧ step t = .next t)

/-- R259, R269, R270, R272, R274, R278: the output operations: `IOR` takes the accumulator's low byte or all of it, the accumulator
rotates, `AUX` follows for the class AUXBUF alone, and the addressed devices are offered the value, but for the class INTERNAL. `SSF` falls,
`SEL` takes the select code, the trailing clear-flag clears `RDY` where the engine is not held; everything else stays. By default the class
is INTERNAL for select code 0, AUXBUF for `SC_AUX` = 15, STD for every other. -/
def Obligations.OutputOperationsOfferTheAccumulator : Prop :=
  (∀ k : SelectCode, outClass defaultParams k = if k = 0 then .internal else if k = 15 then .auxbuf else .std) ∧
  ∀ (s : State) (sc : BitVec 5) (hc : Bool) (cls : OutClass), s.Quiet → s.DefaultWidths → s.hold = none →
    cls = outClass s.cfg (sc.setWidth 4) →
    (∃ t, exec (.ioOt8 sc hc) s = .next t ∧
      t.regs.ior.word = s.regs.ior.word.extractLsb' 8 8 ++ s.acc.word.extractLsb' 0 8 ∧ t.acc.word = s.acc.word.rotateRight 8 ∧
      t.regs.aux.word = (if cls = .auxbuf then s.acc.word.extractLsb' 0 8 ++ s.regs.aux.word.extractLsb' 8 8 else s.regs.aux.word) ∧
      t.regs.iorByte = true ∧ t.buses.iob = some ((s.acc.word.extractLsb' 0 8).setWidth 16) ∧
      (cls ≠ .internal → t.ext.calls = s.offeredTo sc ((s.acc.word.extractLsb' 0 8).setWidth 16) ∧
        t.ext.answers = s.ext.answers.drop (s.addressed sc).length ∧
        t.hold = (if s.answersBusy sc then some { post := .none, clf := hc } else none) ∧
        t.arb = { s.arb with
          ssf := false, sel := sc.setWidth 4, bsy := s.answersBusy sc, rdy := s.arb.rdy && !(hc && !s.answersBusy sc) }) ∧
      (cls = .internal → t.ext = s.ext ∧ t.hold = none ∧
        t.arb = { s.arb with ssf := false, sel := sc.setWidth 4, rdy := s.arb.rdy && !hc }) ∧
      (∀ n : RegName, n ≠ s.accName → n ≠ .IOR → n ≠ .AUX → t.regs.value n = s.regs.value n) ∧
      t.csa = s.csa ∧ t.ab = s.ab ∧ t.bc = s.bc ∧ t.dc = s.dc ∧ t.mem = s.mem ∧ SameConfiguration s t) ∧
    (∃ t, exec (.ioOt16 sc hc) s = .next t ∧
      t.regs.ior.word = s.acc.word ∧ t.acc.word = s.acc.word ∧
      t.regs.aux.word = (if cls = .auxbuf then s.acc.word else s.regs.aux.word) ∧
      t.regs.iorByte = false ∧ t.buses.iob = some (s.acc.word) ∧
      (cls ≠ .internal → t.ext.calls = s.offeredTo sc (s.acc.word) ∧ t.ext.answers = s.ext.answers.drop (s.addressed sc).length ∧
        t.hold = (if s.answersBusy sc then some { post := .none, clf := hc } else none) ∧
        t.arb = { s.arb with
          ssf := false, sel := sc.setWidth 4, bsy := s.answersBusy sc, rdy := s.arb.rdy && !(hc && !s.answersBusy sc) }) ∧
      (cls = .internal → t.ext = s.ext ∧ t.hold = none ∧
        t.arb = { s.arb with ssf := false, sel := sc.setWidth 4, rdy := s.arb.rdy && !hc }) ∧
      (∀ n : RegName, n ≠ s.accName → n ≠ .IOR → n ≠ .AUX → t.regs.value n = s.regs.value n) ∧
      t.csa = s.csa ∧ t.ab = s.ab ∧ t.bc = s.bc ∧ t.dc = s.dc ∧ t.mem = s.mem ∧ SameConfiguration s t)

/-- R275, R267, R268, R272, R211, U2: the engine goes on only once `BSY` falls. Held, with `BSY` still up after the transitions scheduled
here, the step changes nothing of the engine; with none scheduled the state is its own next state. Once `BSY` is down the hold is over:
the rest of the operation runs (a load latches `IOB` into `IOR` and fills the accumulator with its byte or word, the trailing
clear-flag clears `RDY`), the rest of the cycle runs, and the address moves on by the word that was held, a branch request seeing the
qualifiers after the operation (default qualifiers, fields and widths). -/
def Obligations.HeldEngineWaitsForBusy : Prop :=
  ∀ (s : State) (h : Hold), s.hold = some h →
    ∃ t, step s = .next t ∧
      ((interleave false s).arb.bsy = true → SameEngine s t ∧ SameConfiguration s t ∧ t.hold = some h) ∧
      (s.Stuck → t = s) ∧
      ((interleave false s).arb.bsy = false → t.AtRest ∧ t.arb.bsy = false ∧
        (s.regs.ior.en = false → h.post = .none → t.regs.ior.nat = s.regs.ior.nat) ∧
        (s.regs.ior.en = false → s.DefaultWidths → h.post = .load16 → s.regs.iorByte = false → t.regs.ior.word = s.iobValue) ∧
        (s.regs.ior.en = false → s.DefaultWidths → h.post = .load8 → s.regs.iorByte = true → t.regs.ior.word = s.iobValue) ∧
        ((interleave false s).Quiet → t.arb.rdy = ((interleave false s).arb.rdy && !h.clf)) ∧
        ∀ e, s.cyc.ir = some e →
          (e.brq = false → t.csa = s.csa ^^^ (e.pm ++ e.sm)) ∧
          (s.HeldPlainly → e.xop ≠ .acc → e.xop ≠ .dec → e.xop ≠ .cab →
            (h.post = .none → t.acc.nat = s.acc.nat) ∧
            (s.DefaultWidths → h.post = .load16 → s.regs.iorByte = false → t.acc.word = s.iobValue) ∧
            (s.DefaultWidths → h.post = .load8 → s.regs.iorByte = true →
              t.acc.word = s.iobValue.extractLsb' 0 8 ++ s.acc.word.extractLsb' 8 8)) ∧
          ((interleave false s).Quiet → s.HeldPlainly → s.DefaultTests → s.DefaultFields → s.DefaultWidths → e.brq = true →
            t.csa = s.csa ^^^ (e.pm ++
              (if (if s.csa.extractLsb' 4 4 = 9 then s.bc else if s.csa.extractLsb' 4 4 = 10 then s.dc
                   else if s.csa.extractLsb' 4 4 = 7 ∧ e.xop = .qb then s.regs.q.bit 6
                   else t.qual (s.csa.extractLsb' 4 4))
               then e.sm else e.sm &&& 0b1110))))

/-- R276: what a PERIPHERAL's transition does, and that it does nothing else. That a device which is not registered has no transition is the
model's reading (DESIGN CHOICE, log entry 7), and so is what a device of code 0, which R41 and R46 do not give, does: it has no strobe, and
completes or changes `RDY` where `SEL` is 0 (DESIGN CHOICE, log entry 31). -/
def Obligations.PeripheralsWriteTheirFieldsOnly : Prop :=
  ∀ (s : State) (b : Bool) (d : DirEntry) (a : PeriphAct),
    SameEngine s (applyEvent b s (.periph d a)) ∧ SameConfiguration s (applyEvent b s (.periph d a)) ∧
    (applyEvent b s (.periph d a)).hold = s.hold ∧ (applyEvent b s (.periph d a)).ext = s.ext ∧
    (applyEvent b s (.periph d a)).arb.inh = s.arb.inh ∧ (applyEvent b s (.periph d a)).arb.ena = s.arb.ena ∧
    (applyEvent b s (.periph d a)).arb.ssf = s.arb.ssf ∧ (applyEvent b s (.periph d a)).arb.sel = s.arb.sel ∧
    (applyEvent b s (.periph d a)).arb.stp = s.arb.stp ∧ (applyEvent b s (.periph d a)).arb.directory = s.arb.directory ∧
    (d ∉ s.arb.directory → applyEvent b s (.periph d a) = s) ∧
    (d ∈ s.arb.directory →
      (∀ i, (applyEvent b s (.periph d .raise)).arb.stb.getLsbD i = (s.arb.stb.getLsbD i || decide (i + 1 = d.code.toNat))) ∧
      (applyEvent b s (.periph d .raise)).arb = { s.arb with stb := (applyEvent b s (.periph d .raise)).arb.stb } ∧
      (∀ i, (applyEvent b s (.periph d .withdraw)).arb.stb.getLsbD i = (s.arb.stb.getLsbD i && decide (i + 1 ≠ d.code.toNat))) ∧
      (applyEvent b s (.periph d .withdraw)).arb = { s.arb with stb := (applyEvent b s (.periph d .withdraw)).arb.stb } ∧
      (s.arb.bsy = true → s.arb.sel = d.code →
        (applyEvent b s (.periph d .complete)).arb = { s.arb with bsy := false, rdy := true }) ∧
      (s.arb.bsy = false ∨ s.arb.sel ≠ d.code → applyEvent b s (.periph d .complete) = s) ∧
      (∀ v, s.arb.sel = d.code → (applyEvent b s (.periph d (.ready v))).arb = { s.arb with rdy := v }) ∧
      (∀ v, s.arb.sel ≠ d.code → applyEvent b s (.periph d (.ready v)) = s) ∧
      applyEvent b s (.periph d .status) = s)

/-- R277: the HOST's transitions: the hard stop at any time; registering (appended) and removing a device only while no handshake with
it is in progress. That a removal takes the first of equal entries, that a transition which is not allowed does nothing,
and that a device of code 0 is registered like another, are the model's choices (log entries 25, 7 and 31). -/
def Obligations.HostTransitions : Prop :=
  ∀ (s : State) (b v : Bool) (d : DirEntry),
    applyEvent b s (.host (.stop v)) = { s with arb := { s.arb with stp := v } } ∧
    (s.arb.bsy = false ∨ s.arb.sel ≠ d.code →
      applyEvent b s (.host (.register d)) = { s with arb := { s.arb with directory := s.arb.directory ++ [d] } } ∧
      applyEvent b s (.host (.remove d)) = { s with arb := { s.arb with directory := s.arb.directory.erase d } }) ∧
    (s.arb.bsy = true → s.arb.sel = d.code →
      applyEvent b s (.host (.register d)) = s ∧ applyEvent b s (.host (.remove d)) = s)

/-- R304, R305: the engine raises no service request: no instruction writes `STB`, `STP` or the directory, where no other agent's
transition is scheduled. -/
def Obligations.EngineNeverWritesStrobes : Prop :=
  ∀ (i : Instr) (s t : State), s.Quiet → exec i s = .next t →
    t.arb.stb = s.arb.stb ∧ t.arb.stp = s.arb.stp ∧ t.arb.directory = s.arb.directory

/-- R280, R305, R309: the service-request state machine: what one control word does to `SSF` and `INH`, whatever the other agents do
meanwhile. -/
def Obligations.ServiceRequestStateMachine : Prop :=
  ∀ (s t : State) (e : Entry), s.hold = none → exec (.mi e) s = .next t →
    (e.rop ≠ .ios → t.arb.ssf = s.arb.ssf ∧ t.arb.inh = s.arb.inh) ∧
    (e.rop = .ios → s.qIoe = false → s.serviceRequested = true → t.arb.ssf = true ∧ t.arb.inh = true) ∧
    (e.rop = .ios → s.qIoe = false → s.serviceRequested = false →
      t.arb.ssf = s.arb.ssf ∧ t.arb.inh = s.arb.inh) ∧
    (e.rop = .ios → s.qIoe = true →
      t.arb.ssf = false ∧ t.arb.inh = (s.arb.inh && decide (s.qIoop ≠ 9)))

/-! ## Invariants -/

/-- The reset state meets the invariant. -/
def Obligations.ResetMeetsTheInvariant : Prop :=
  State.reset.Inv

/-- Every step keeps the invariant: storage stays canonical (R71, R73), `BSY` is up exactly while the engine is held (R275, R352), a
machine between cycles has every register bound to itself and off and its buses cleared (R30, R31, R212), and an acknowledged request
inhibits (R280). -/
def Obligations.EveryStepKeepsTheInvariant : Prop :=
  ∀ s t : State, s.Inv → step s = .next t → t.Inv

/-- R34, R35, R50, R82, R73, R120: no step changes the control store, the tables, the switches, a register's width or the cells'
writability; a cell that is not writable keeps its value, and so does every cell but the one at `M[14:0]`. -/
def Obligations.StepKeepsConfigurationAndOtherCells : Prop :=
  ∀ s t : State, step s = .next t →
    SameConfiguration s t ∧
    ∀ a : Nat, s.writable a = false ∨ a ≠ s.regs.m.nat % 32768 → t.mem.get a = s.mem.get a
end

