-- ==== Sys2Proof/Laws/State.lean ====
section
/-! SUPPORT. What each update of the state leaves alone: one lemma per field per update. -/

namespace Sys2Proof.Machine

/-! ### `State.driveR` -/

@[simp] theorem State.driveR_csa (s : State) (d : Driver) : (s.driveR d).csa = s.csa := rfl
@[simp] theorem State.driveR_regs (s : State) (d : Driver) : (s.driveR d).regs = s.regs := rfl
@[simp] theorem State.driveR_ab (s : State) (d : Driver) : (s.driveR d).ab = s.ab := rfl
@[simp] theorem State.driveR_bc (s : State) (d : Driver) : (s.driveR d).bc = s.bc := rfl
@[simp] theorem State.driveR_dc (s : State) (d : Driver) : (s.driveR d).dc = s.dc := rfl
@[simp] theorem State.driveR_cyc (s : State) (d : Driver) : (s.driveR d).cyc = s.cyc := rfl
@[simp] theorem State.driveR_arb (s : State) (d : Driver) : (s.driveR d).arb = s.arb := rfl
@[simp] theorem State.driveR_mem (s : State) (d : Driver) : (s.driveR d).mem = s.mem := rfl
@[simp] theorem State.driveR_rom (s : State) (d : Driver) : (s.driveR d).rom = s.rom := rfl
@[simp] theorem State.driveR_cs (s : State) (d : Driver) : (s.driveR d).cs = s.cs := rfl
@[simp] theorem State.driveR_cfg (s : State) (d : Driver) : (s.driveR d).cfg = s.cfg := rfl
@[simp] theorem State.driveR_hold (s : State) (d : Driver) : (s.driveR d).hold = s.hold := rfl
@[simp] theorem State.driveR_ext (s : State) (d : Driver) : (s.driveR d).ext = s.ext := rfl

/-! ### `State.driveS` -/

@[simp] theorem State.driveS_csa (s : State) (d : Driver) : (s.driveS d).csa = s.csa := rfl
@[simp] theorem State.driveS_regs (s : State) (d : Driver) : (s.driveS d).regs = s.regs := rfl
@[simp] theorem State.driveS_ab (s : State) (d : Driver) : (s.driveS d).ab = s.ab := rfl
@[simp] theorem State.driveS_bc (s : State) (d : Driver) : (s.driveS d).bc = s.bc := rfl
@[simp] theorem State.driveS_dc (s : State) (d : Driver) : (s.driveS d).dc = s.dc := rfl
@[simp] theorem State.driveS_cyc (s : State) (d : Driver) : (s.driveS d).cyc = s.cyc := rfl
@[simp] theorem State.driveS_arb (s : State) (d : Driver) : (s.driveS d).arb = s.arb := rfl
@[simp] theorem State.driveS_mem (s : State) (d : Driver) : (s.driveS d).mem = s.mem := rfl
@[simp] theorem State.driveS_rom (s : State) (d : Driver) : (s.driveS d).rom = s.rom := rfl
@[simp] theorem State.driveS_cs (s : State) (d : Driver) : (s.driveS d).cs = s.cs := rfl
@[simp] theorem State.driveS_cfg (s : State) (d : Driver) : (s.driveS d).cfg = s.cfg := rfl
@[simp] theorem State.driveS_hold (s : State) (d : Driver) : (s.driveS d).hold = s.hold := rfl
@[simp] theorem State.driveS_ext (s : State) (d : Driver) : (s.driveS d).ext = s.ext := rfl

/-! ### `State.setAcc` -/

@[simp] theorem State.setAcc_csa (s : State) (r : BitReg) : (s.setAcc r).csa = s.csa := by
  unfold State.setAcc; split <;> rfl
@[simp] theorem State.setAcc_ab (s : State) (r : BitReg) : (s.setAcc r).ab = s.ab := by
  unfold State.setAcc; split <;> rfl
@[simp] theorem State.setAcc_bc (s : State) (r : BitReg) : (s.setAcc r).bc = s.bc := by
  unfold State.setAcc; split <;> rfl
@[simp] theorem State.setAcc_dc (s : State) (r : BitReg) : (s.setAcc r).dc = s.dc := by
  unfold State.setAcc; split <;> rfl
@[simp] theorem State.setAcc_buses (s : State) (r : BitReg) : (s.setAcc r).buses = s.buses := by
  unfold State.setAcc; split <;> rfl
@[simp] theorem State.setAcc_cyc (s : State) (r : BitReg) : (s.setAcc r).cyc = s.cyc := by
  unfold State.setAcc; split <;> rfl
@[simp] theorem State.setAcc_arb (s : State) (r : BitReg) : (s.setAcc r).arb = s.arb := by
  unfold State.setAcc; split <;> rfl
@[simp] theorem State.setAcc_mem (s : State) (r : BitReg) : (s.setAcc r).mem = s.mem := by
  unfold State.setAcc; split <;> rfl
@[simp] theorem State.setAcc_rom (s : State) (r : BitReg) : (s.setAcc r).rom = s.rom := by
  unfold State.setAcc; split <;> rfl
@[simp] theorem State.setAcc_cs (s : State) (r : BitReg) : (s.setAcc r).cs = s.cs := by
  unfold State.setAcc; split <;> rfl
@[simp] theorem State.setAcc_cfg (s : State) (r : BitReg) : (s.setAcc r).cfg = s.cfg := by
  unfold State.setAcc; split <;> rfl
@[simp] theorem State.setAcc_hold (s : State) (r : BitReg) : (s.setAcc r).hold = s.hold := by
  unfold State.setAcc; split <;> rfl
@[simp] theorem State.setAcc_ext (s : State) (r : BitReg) : (s.setAcc r).ext = s.ext := by
  unfold State.setAcc; split <;> rfl

/-! ### `aluInit` -/

@[simp] theorem aluInit_csa (s : State) : (aluInit s).csa = s.csa := rfl
@[simp] theorem aluInit_regs (s : State) : (aluInit s).regs = s.regs := rfl
@[simp] theorem aluInit_ab (s : State) : (aluInit s).ab = s.ab := rfl
@[simp] theorem aluInit_bc (s : State) : (aluInit s).bc = s.bc := rfl
@[simp] theorem aluInit_dc (s : State) : (aluInit s).dc = s.dc := rfl
@[simp] theorem aluInit_buses (s : State) : (aluInit s).buses = s.buses := rfl
@[simp] theorem aluInit_arb (s : State) : (aluInit s).arb = s.arb := rfl
@[simp] theorem aluInit_mem (s : State) : (aluInit s).mem = s.mem := rfl
@[simp] theorem aluInit_rom (s : State) : (aluInit s).rom = s.rom := rfl
@[simp] theorem aluInit_cs (s : State) : (aluInit s).cs = s.cs := rfl
@[simp] theorem aluInit_cfg (s : State) : (aluInit s).cfg = s.cfg := rfl
@[simp] theorem aluInit_hold (s : State) : (aluInit s).hold = s.hold := rfl
@[simp] theorem aluInit_ext (s : State) : (aluInit s).ext = s.ext := rfl

/-! ### `aluExec` -/

@[simp] theorem aluExec_csa (op : BitVec 3) (s : State) : (aluExec op s).csa = s.csa := rfl
@[simp] theorem aluExec_regs (op : BitVec 3) (s : State) : (aluExec op s).regs = s.regs := rfl
@[simp] theorem aluExec_ab (op : BitVec 3) (s : State) : (aluExec op s).ab = s.ab := rfl
@[simp] theorem aluExec_bc (op : BitVec 3) (s : State) : (aluExec op s).bc = s.bc := rfl
@[simp] theorem aluExec_dc (op : BitVec 3) (s : State) : (aluExec op s).dc = s.dc := rfl
@[simp] theorem aluExec_buses (op : BitVec 3) (s : State) : (aluExec op s).buses = s.buses := rfl
@[simp] theorem aluExec_arb (op : BitVec 3) (s : State) : (aluExec op s).arb = s.arb := rfl
@[simp] theorem aluExec_mem (op : BitVec 3) (s : State) : (aluExec op s).mem = s.mem := rfl
@[simp] theorem aluExec_rom (op : BitVec 3) (s : State) : (aluExec op s).rom = s.rom := rfl
@[simp] theorem aluExec_cs (op : BitVec 3) (s : State) : (aluExec op s).cs = s.cs := rfl
@[simp] theorem aluExec_cfg (op : BitVec 3) (s : State) : (aluExec op s).cfg = s.cfg := rfl
@[simp] theorem aluExec_hold (op : BitVec 3) (s : State) : (aluExec op s).hold = s.hold := rfl
@[simp] theorem aluExec_ext (op : BitVec 3) (s : State) : (aluExec op s).ext = s.ext := rfl

/-! ### `aluPass` -/

@[simp] theorem aluPass_csa (op : BitVec 3) (s : State) : (aluPass op s).csa = s.csa := rfl
@[simp] theorem aluPass_regs (op : BitVec 3) (s : State) : (aluPass op s).regs = s.regs := rfl
@[simp] theorem aluPass_ab (op : BitVec 3) (s : State) : (aluPass op s).ab = s.ab := rfl
@[simp] theorem aluPass_bc (op : BitVec 3) (s : State) : (aluPass op s).bc = s.bc := rfl
@[simp] theorem aluPass_dc (op : BitVec 3) (s : State) : (aluPass op s).dc = s.dc := rfl
@[simp] theorem aluPass_arb (op : BitVec 3) (s : State) : (aluPass op s).arb = s.arb := rfl
@[simp] theorem aluPass_mem (op : BitVec 3) (s : State) : (aluPass op s).mem = s.mem := rfl
@[simp] theorem aluPass_rom (op : BitVec 3) (s : State) : (aluPass op s).rom = s.rom := rfl
@[simp] theorem aluPass_cs (op : BitVec 3) (s : State) : (aluPass op s).cs = s.cs := rfl
@[simp] theorem aluPass_cfg (op : BitVec 3) (s : State) : (aluPass op s).cfg = s.cfg := rfl
@[simp] theorem aluPass_hold (op : BitVec 3) (s : State) : (aluPass op s).hold = s.hold := rfl
@[simp] theorem aluPass_ext (op : BitVec 3) (s : State) : (aluPass op s).ext = s.ext := rfl

/-! ### `commitCarry` -/

@[simp] theorem commitCarry_csa (s : State) : (commitCarry s).csa = s.csa := by
  unfold commitCarry; split <;> rfl
@[simp] theorem commitCarry_regs (s : State) : (commitCarry s).regs = s.regs := by
  unfold commitCarry; split <;> rfl
@[simp] theorem commitCarry_ab (s : State) : (commitCarry s).ab = s.ab := by
  unfold commitCarry; split <;> rfl
@[simp] theorem commitCarry_dc (s : State) : (commitCarry s).dc = s.dc := by
  unfold commitCarry; split <;> rfl
@[simp] theorem commitCarry_buses (s : State) : (commitCarry s).buses = s.buses := by
  unfold commitCarry; split <;> rfl
@[simp] theorem commitCarry_cyc (s : State) : (commitCarry s).cyc = s.cyc := by
  unfold commitCarry; split <;> rfl
@[simp] theorem commitCarry_arb (s : State) : (commitCarry s).arb = s.arb := by
  unfold commitCarry; split <;> rfl
@[simp] theorem commitCarry_mem (s : State) : (commitCarry s).mem = s.mem := by
  unfold commitCarry; split <;> rfl
@[simp] theorem commitCarry_rom (s : State) : (commitCarry s).rom = s.rom := by
  unfold commitCarry; split <;> rfl
@[simp] theorem commitCarry_cs (s : State) : (commitCarry s).cs = s.cs := by
  unfold commitCarry; split <;> rfl
@[simp] theorem commitCarry_cfg (s : State) : (commitCarry s).cfg = s.cfg := by
  unfold commitCarry; split <;> rfl
@[simp] theorem commitCarry_hold (s : State) : (commitCarry s).hold = s.hold := by
  unfold commitCarry; split <;> rfl
@[simp] theorem commitCarry_ext (s : State) : (commitCarry s).ext = s.ext := by
  unfold commitCarry; split <;> rfl

/-! ### `commitDigit` -/

@[simp] theorem commitDigit_csa (op : AOp) (s : State) : (commitDigit op s).csa = s.csa := by
  unfold commitDigit; split <;> simp
@[simp] theorem commitDigit_ab (op : AOp) (s : State) : (commitDigit op s).ab = s.ab := by
  unfold commitDigit; split <;> simp
@[simp] theorem commitDigit_bc (op : AOp) (s : State) : (commitDigit op s).bc = s.bc := by
  unfold commitDigit; split <;> simp
@[simp] theorem commitDigit_dc (op : AOp) (s : State) : (commitDigit op s).dc = s.dc := by
  unfold commitDigit; split <;> simp
@[simp] theorem commitDigit_buses (op : AOp) (s : State) : (commitDigit op s).buses = s.buses := by
  unfold commitDigit; split <;> simp
@[simp] theorem commitDigit_cyc (op : AOp) (s : State) : (commitDigit op s).cyc = s.cyc := by
  unfold commitDigit; split <;> simp
@[simp] theorem commitDigit_arb (op : AOp) (s : State) : (commitDigit op s).arb = s.arb := by
  unfold commitDigit; split <;> simp
@[simp] theorem commitDigit_mem (op : AOp) (s : State) : (commitDigit op s).mem = s.mem := by
  unfold commitDigit; split <;> simp
@[simp] theorem commitDigit_rom (op : AOp) (s : State) : (commitDigit op s).rom = s.rom := by
  unfold commitDigit; split <;> simp
@[simp] theorem commitDigit_cs (op : AOp) (s : State) : (commitDigit op s).cs = s.cs := by
  unfold commitDigit; split <;> simp
@[simp] theorem commitDigit_cfg (op : AOp) (s : State) : (commitDigit op s).cfg = s.cfg := by
  unfold commitDigit; split <;> simp
@[simp] theorem commitDigit_hold (op : AOp) (s : State) : (commitDigit op s).hold = s.hold := by
  unfold commitDigit; split <;> simp
@[simp] theorem commitDigit_ext (op : AOp) (s : State) : (commitDigit op s).ext = s.ext := by
  unfold commitDigit; split <;> simp

/-! ### `decimalCommit` -/

@[simp] theorem decimalCommit_csa (op : AOp) (s : State) : (decimalCommit op s).csa = s.csa := by
  unfold decimalCommit; split <;> simp
@[simp] theorem decimalCommit_ab (op : AOp) (s : State) : (decimalCommit op s).ab = s.ab := by
  unfold decimalCommit; split <;> simp
@[simp] theorem decimalCommit_bc (op : AOp) (s : State) : (decimalCommit op s).bc = s.bc := by
  unfold decimalCommit; split <;> simp
@[simp] theorem decimalCommit_buses (op : AOp) (s : State) : (decimalCommit op s).buses = s.buses := by
  unfold decimalCommit; split <;> simp
@[simp] theorem decimalCommit_cyc (op : AOp) (s : State) : (decimalCommit op s).cyc = s.cyc := by
  unfold decimalCommit; split <;> simp
@[simp] theorem decimalCommit_arb (op : AOp) (s : State) : (decimalCommit op s).arb = s.arb := by
  unfold decimalCommit; split <;> simp
@[simp] theorem decimalCommit_mem (op : AOp) (s : State) : (decimalCommit op s).mem = s.mem := by
  unfold decimalCommit; split <;> simp
@[simp] theorem decimalCommit_rom (op : AOp) (s : State) : (decimalCommit op s).rom = s.rom := by
  unfold decimalCommit; split <;> simp
@[simp] theorem decimalCommit_cs (op : AOp) (s : State) : (decimalCommit op s).cs = s.cs := by
  unfold decimalCommit; split <;> simp
@[simp] theorem decimalCommit_cfg (op : AOp) (s : State) : (decimalCommit op s).cfg = s.cfg := by
  unfold decimalCommit; split <;> simp
@[simp] theorem decimalCommit_hold (op : AOp) (s : State) : (decimalCommit op s).hold = s.hold := by
  unfold decimalCommit; split <;> simp
@[simp] theorem decimalCommit_ext (op : AOp) (s : State) : (decimalCommit op s).ext = s.ext := by
  unfold decimalCommit; split <;> simp

/-! ### `powerOnPreset` -/

@[simp] theorem powerOnPreset_ab (s : State) : (powerOnPreset s).ab = s.ab := rfl
@[simp] theorem powerOnPreset_bc (s : State) : (powerOnPreset s).bc = s.bc := rfl
@[simp] theorem powerOnPreset_dc (s : State) : (powerOnPreset s).dc = s.dc := rfl
@[simp] theorem powerOnPreset_cyc (s : State) : (powerOnPreset s).cyc = s.cyc := rfl
@[simp] theorem powerOnPreset_mem (s : State) : (powerOnPreset s).mem = s.mem := rfl
@[simp] theorem powerOnPreset_rom (s : State) : (powerOnPreset s).rom = s.rom := rfl
@[simp] theorem powerOnPreset_cs (s : State) : (powerOnPreset s).cs = s.cs := rfl
@[simp] theorem powerOnPreset_cfg (s : State) : (powerOnPreset s).cfg = s.cfg := rfl
@[simp] theorem powerOnPreset_hold (s : State) : (powerOnPreset s).hold = s.hold := rfl
@[simp] theorem powerOnPreset_ext (s : State) : (powerOnPreset s).ext = s.ext := rfl

/-! ### `leaveAcknowledged` -/

@[simp] theorem leaveAcknowledged_csa (sc : BitVec 5) (s : State) : (leaveAcknowledged sc s).csa = s.csa := rfl
@[simp] theorem leaveAcknowledged_regs (sc : BitVec 5) (s : State) : (leaveAcknowledged sc s).regs = s.regs := rfl
@[simp] theorem leaveAcknowledged_ab (sc : BitVec 5) (s : State) : (leaveAcknowledged sc s).ab = s.ab := rfl
@[simp] theorem leaveAcknowledged_bc (sc : BitVec 5) (s : State) : (leaveAcknowledged sc s).bc = s.bc := rfl
@[simp] theorem leaveAcknowledged_dc (sc : BitVec 5) (s : State) : (leaveAcknowledged sc s).dc = s.dc := rfl
@[simp] theorem leaveAcknowledged_buses (sc : BitVec 5) (s : State) : (leaveAcknowledged sc s).buses = s.buses := rfl
@[simp] theorem leaveAcknowledged_cyc (sc : BitVec 5) (s : State) : (leaveAcknowledged sc s).cyc = s.cyc := rfl
@[simp] theorem leaveAcknowledged_mem (sc : BitVec 5) (s : State) : (leaveAcknowledged sc s).mem = s.mem := rfl
@[simp] theorem leaveAcknowledged_rom (sc : BitVec 5) (s : State) : (leaveAcknowledged sc s).rom = s.rom := rfl
@[simp] theorem leaveAcknowledged_cs (sc : BitVec 5) (s : State) : (leaveAcknowledged sc s).cs = s.cs := rfl
@[simp] theorem leaveAcknowledged_cfg (sc : BitVec 5) (s : State) : (leaveAcknowledged sc s).cfg = s.cfg := rfl
@[simp] theorem leaveAcknowledged_hold (sc : BitVec 5) (s : State) : (leaveAcknowledged sc s).hold = s.hold := rfl
@[simp] theorem leaveAcknowledged_ext (sc : BitVec 5) (s : State) : (leaveAcknowledged sc s).ext = s.ext := rfl

/-! ### `endService` -/

@[simp] theorem endService_csa (s : State) : (endService s).csa = s.csa := rfl
@[simp] theorem endService_ab (s : State) : (endService s).ab = s.ab := rfl
@[simp] theorem endService_bc (s : State) : (endService s).bc = s.bc := rfl
@[simp] theorem endService_dc (s : State) : (endService s).dc = s.dc := rfl
@[simp] theorem endService_buses (s : State) : (endService s).buses = s.buses := rfl
@[simp] theorem endService_cyc (s : State) : (endService s).cyc = s.cyc := rfl
@[simp] theorem endService_mem (s : State) : (endService s).mem = s.mem := rfl
@[simp] theorem endService_rom (s : State) : (endService s).rom = s.rom := rfl
@[simp] theorem endService_cs (s : State) : (endService s).cs = s.cs := rfl
@[simp] theorem endService_cfg (s : State) : (endService s).cfg = s.cfg := rfl
@[simp] theorem endService_hold (s : State) : (endService s).hold = s.hold := rfl
@[simp] theorem endService_ext (s : State) : (endService s).ext = s.ext := rfl

/-! ### `serviceRequestAcknowledge` -/

@[simp] theorem serviceRequestAcknowledge_csa (s : State) : (serviceRequestAcknowledge s).csa = s.csa := rfl
@[simp] theorem serviceRequestAcknowledge_ab (s : State) : (serviceRequestAcknowledge s).ab = s.ab := rfl
@[simp] theorem serviceRequestAcknowledge_bc (s : State) : (serviceRequestAcknowledge s).bc = s.bc := rfl
@[simp] theorem serviceRequestAcknowledge_dc (s : State) : (serviceRequestAcknowledge s).dc = s.dc := rfl
@[simp] theorem serviceRequestAcknowledge_cyc (s : State) : (serviceRequestAcknowledge s).cyc = s.cyc := rfl
@[simp] theorem serviceRequestAcknowledge_mem (s : State) : (serviceRequestAcknowledge s).mem = s.mem := rfl
@[simp] theorem serviceRequestAcknowledge_rom (s : State) : (serviceRequestAcknowledge s).rom = s.rom := rfl
@[simp] theorem serviceRequestAcknowledge_cs (s : State) : (serviceRequestAcknowledge s).cs = s.cs := rfl
@[simp] theorem serviceRequestAcknowledge_cfg (s : State) : (serviceRequestAcknowledge s).cfg = s.cfg := rfl
@[simp] theorem serviceRequestAcknowledge_hold (s : State) : (serviceRequestAcknowledge s).hold = s.hold := rfl
@[simp] theorem serviceRequestAcknowledge_ext (s : State) : (serviceRequestAcknowledge s).ext = s.ext := rfl

/-! ### `State.memWrite` -/

@[simp] theorem State.memWrite_csa (s : State) (a v : Word) : (s.memWrite a v).csa = s.csa := by
  unfold State.memWrite; split <;> rfl
@[simp] theorem State.memWrite_regs (s : State) (a v : Word) : (s.memWrite a v).regs = s.regs := by
  unfold State.memWrite; split <;> rfl
@[simp] theorem State.memWrite_ab (s : State) (a v : Word) : (s.memWrite a v).ab = s.ab := by
  unfold State.memWrite; split <;> rfl
@[simp] theorem State.memWrite_bc (s : State) (a v : Word) : (s.memWrite a v).bc = s.bc := by
  unfold State.memWrite; split <;> rfl
@[simp] theorem State.memWrite_dc (s : State) (a v : Word) : (s.memWrite a v).dc = s.dc := by
  unfold State.memWrite; split <;> rfl
@[simp] theorem State.memWrite_buses (s : State) (a v : Word) : (s.memWrite a v).buses = s.buses := by
  unfold State.memWrite; split <;> rfl
@[simp] theorem State.memWrite_cyc (s : State) (a v : Word) : (s.memWrite a v).cyc = s.cyc := by
  unfold State.memWrite; split <;> rfl
@[simp] theorem State.memWrite_arb (s : State) (a v : Word) : (s.memWrite a v).arb = s.arb := by
  unfold State.memWrite; split <;> rfl
@[simp] theorem State.memWrite_rom (s : State) (a v : Word) : (s.memWrite a v).rom = s.rom := by
  unfold State.memWrite; split <;> rfl
@[simp] theorem State.memWrite_cs (s : State) (a v : Word) : (s.memWrite a v).cs = s.cs := by
  unfold State.memWrite; split <;> rfl
@[simp] theorem State.memWrite_cfg (s : State) (a v : Word) : (s.memWrite a v).cfg = s.cfg := by
  unfold State.memWrite; split <;> rfl
@[simp] theorem State.memWrite_hold (s : State) (a v : Word) : (s.memWrite a v).hold = s.hold := by
  unfold State.memWrite; split <;> rfl
@[simp] theorem State.memWrite_ext (s : State) (a v : Word) : (s.memWrite a v).ext = s.ext := by
  unfold State.memWrite; split <;> rfl

/-! ### `afterCall` -/

@[simp] theorem afterCall_csa (c : DevCall) (s : State) : (afterCall c s).csa = s.csa := rfl
@[simp] theorem afterCall_regs (c : DevCall) (s : State) : (afterCall c s).regs = s.regs := rfl
@[simp] theorem afterCall_ab (c : DevCall) (s : State) : (afterCall c s).ab = s.ab := rfl
@[simp] theorem afterCall_bc (c : DevCall) (s : State) : (afterCall c s).bc = s.bc := rfl
@[simp] theorem afterCall_dc (c : DevCall) (s : State) : (afterCall c s).dc = s.dc := rfl
@[simp] theorem afterCall_buses (c : DevCall) (s : State) : (afterCall c s).buses = s.buses := rfl
@[simp] theorem afterCall_cyc (c : DevCall) (s : State) : (afterCall c s).cyc = s.cyc := rfl
@[simp] theorem afterCall_arb (c : DevCall) (s : State) : (afterCall c s).arb = s.arb := rfl
@[simp] theorem afterCall_mem (c : DevCall) (s : State) : (afterCall c s).mem = s.mem := rfl
@[simp] theorem afterCall_rom (c : DevCall) (s : State) : (afterCall c s).rom = s.rom := rfl
@[simp] theorem afterCall_cs (c : DevCall) (s : State) : (afterCall c s).cs = s.cs := rfl
@[simp] theorem afterCall_cfg (c : DevCall) (s : State) : (afterCall c s).cfg = s.cfg := rfl
@[simp] theorem afterCall_hold (c : DevCall) (s : State) : (afterCall c s).hold = s.hold := rfl

/-! ### `setBusy` -/

@[simp] theorem setBusy_csa (v : Bool) (s : State) : (setBusy v s).csa = s.csa := rfl
@[simp] theorem setBusy_regs (v : Bool) (s : State) : (setBusy v s).regs = s.regs := rfl
@[simp] theorem setBusy_ab (v : Bool) (s : State) : (setBusy v s).ab = s.ab := rfl
@[simp] theorem setBusy_bc (v : Bool) (s : State) : (setBusy v s).bc = s.bc := rfl
@[simp] theorem setBusy_dc (v : Bool) (s : State) : (setBusy v s).dc = s.dc := rfl
@[simp] theorem setBusy_buses (v : Bool) (s : State) : (setBusy v s).buses = s.buses := rfl
@[simp] theorem setBusy_cyc (v : Bool) (s : State) : (setBusy v s).cyc = s.cyc := rfl
@[simp] theorem setBusy_mem (v : Bool) (s : State) : (setBusy v s).mem = s.mem := rfl
@[simp] theorem setBusy_rom (v : Bool) (s : State) : (setBusy v s).rom = s.rom := rfl
@[simp] theorem setBusy_cs (v : Bool) (s : State) : (setBusy v s).cs = s.cs := rfl
@[simp] theorem setBusy_cfg (v : Bool) (s : State) : (setBusy v s).cfg = s.cfg := rfl
@[simp] theorem setBusy_hold (v : Bool) (s : State) : (setBusy v s).hold = s.hold := rfl
@[simp] theorem setBusy_ext (v : Bool) (s : State) : (setBusy v s).ext = s.ext := rfl

/-! ### `clearIobFor` -/

@[simp] theorem clearIobFor_csa (dir : Dir) (s : State) : (clearIobFor dir s).csa = s.csa := by
  cases dir <;> rfl
@[simp] theorem clearIobFor_regs (dir : Dir) (s : State) : (clearIobFor dir s).regs = s.regs := by
  cases dir <;> rfl
@[simp] theorem clearIobFor_ab (dir : Dir) (s : State) : (clearIobFor dir s).ab = s.ab := by
  cases dir <;> rfl
@[simp] theorem clearIobFor_bc (dir : Dir) (s : State) : (clearIobFor dir s).bc = s.bc := by
  cases dir <;> rfl
@[simp] theorem clearIobFor_dc (dir : Dir) (s : State) : (clearIobFor dir s).dc = s.dc := by
  cases dir <;> rfl
@[simp] theorem clearIobFor_cyc (dir : Dir) (s : State) : (clearIobFor dir s).cyc = s.cyc := by
  cases dir <;> rfl
@[simp] theorem clearIobFor_arb (dir : Dir) (s : State) : (clearIobFor dir s).arb = s.arb := by
  cases dir <;> rfl
@[simp] theorem clearIobFor_mem (dir : Dir) (s : State) : (clearIobFor dir s).mem = s.mem := by
  cases dir <;> rfl
@[simp] theorem clearIobFor_rom (dir : Dir) (s : State) : (clearIobFor dir s).rom = s.rom := by
  cases dir <;> rfl
@[simp] theorem clearIobFor_cs (dir : Dir) (s : State) : (clearIobFor dir s).cs = s.cs := by
  cases dir <;> rfl
@[simp] theorem clearIobFor_cfg (dir : Dir) (s : State) : (clearIobFor dir s).cfg = s.cfg := by
  cases dir <;> rfl
@[simp] theorem clearIobFor_hold (dir : Dir) (s : State) : (clearIobFor dir s).hold = s.hold := by
  cases dir <;> rfl
@[simp] theorem clearIobFor_ext (dir : Dir) (s : State) : (clearIobFor dir s).ext = s.ext := by
  cases dir <;> rfl

/-! ### `runIoClf` -/

@[simp] theorem runIoClf_csa (s : State) : (runIoClf s).csa = s.csa := rfl
@[simp] theorem runIoClf_regs (s : State) : (runIoClf s).regs = s.regs := rfl
@[simp] theorem runIoClf_ab (s : State) : (runIoClf s).ab = s.ab := rfl
@[simp] theorem runIoClf_bc (s : State) : (runIoClf s).bc = s.bc := rfl
@[simp] theorem runIoClf_dc (s : State) : (runIoClf s).dc = s.dc := rfl
@[simp] theorem runIoClf_buses (s : State) : (runIoClf s).buses = s.buses := rfl
@[simp] theorem runIoClf_cyc (s : State) : (runIoClf s).cyc = s.cyc := rfl
@[simp] theorem runIoClf_mem (s : State) : (runIoClf s).mem = s.mem := rfl
@[simp] theorem runIoClf_rom (s : State) : (runIoClf s).rom = s.rom := rfl
@[simp] theorem runIoClf_cs (s : State) : (runIoClf s).cs = s.cs := rfl
@[simp] theorem runIoClf_cfg (s : State) : (runIoClf s).cfg = s.cfg := rfl
@[simp] theorem runIoClf_hold (s : State) : (runIoClf s).hold = s.hold := rfl
@[simp] theorem runIoClf_ext (s : State) : (runIoClf s).ext = s.ext := rfl

/-! ### `ioEnd` -/

@[simp] theorem ioEnd_csa (hc : Bool) (s : State) : (ioEnd hc s).csa = s.csa := by
  unfold ioEnd; split <;> rfl
@[simp] theorem ioEnd_regs (hc : Bool) (s : State) : (ioEnd hc s).regs = s.regs := by
  unfold ioEnd; split <;> rfl
@[simp] theorem ioEnd_ab (hc : Bool) (s : State) : (ioEnd hc s).ab = s.ab := by
  unfold ioEnd; split <;> rfl
@[simp] theorem ioEnd_bc (hc : Bool) (s : State) : (ioEnd hc s).bc = s.bc := by
  unfold ioEnd; split <;> rfl
@[simp] theorem ioEnd_dc (hc : Bool) (s : State) : (ioEnd hc s).dc = s.dc := by
  unfold ioEnd; split <;> rfl
@[simp] theorem ioEnd_buses (hc : Bool) (s : State) : (ioEnd hc s).buses = s.buses := by
  unfold ioEnd; split <;> rfl
@[simp] theorem ioEnd_cyc (hc : Bool) (s : State) : (ioEnd hc s).cyc = s.cyc := by
  unfold ioEnd; split <;> rfl
@[simp] theorem ioEnd_mem (hc : Bool) (s : State) : (ioEnd hc s).mem = s.mem := by
  unfold ioEnd; split <;> rfl
@[simp] theorem ioEnd_rom (hc : Bool) (s : State) : (ioEnd hc s).rom = s.rom := by
  unfold ioEnd; split <;> rfl
@[simp] theorem ioEnd_cs (hc : Bool) (s : State) : (ioEnd hc s).cs = s.cs := by
  unfold ioEnd; split <;> rfl
@[simp] theorem ioEnd_cfg (hc : Bool) (s : State) : (ioEnd hc s).cfg = s.cfg := by
  unfold ioEnd; split <;> rfl
@[simp] theorem ioEnd_hold (hc : Bool) (s : State) : (ioEnd hc s).hold = s.hold := by
  unfold ioEnd; split <;> rfl
@[simp] theorem ioEnd_ext (hc : Bool) (s : State) : (ioEnd hc s).ext = s.ext := by
  unfold ioEnd; split <;> rfl

/-! ### `driveUnit` -/

@[simp] theorem driveUnit_csa (s : State) : (driveUnit s).csa = s.csa := rfl
@[simp] theorem driveUnit_regs (s : State) : (driveUnit s).regs = s.regs := rfl
@[simp] theorem driveUnit_ab (s : State) : (driveUnit s).ab = s.ab := rfl
@[simp] theorem driveUnit_bc (s : State) : (driveUnit s).bc = s.bc := rfl
@[simp] theorem driveUnit_dc (s : State) : (driveUnit s).dc = s.dc := rfl
@[simp] theorem driveUnit_arb (s : State) : (driveUnit s).arb = s.arb := rfl
@[simp] theorem driveUnit_mem (s : State) : (driveUnit s).mem = s.mem := rfl
@[simp] theorem driveUnit_rom (s : State) : (driveUnit s).rom = s.rom := rfl
@[simp] theorem driveUnit_cs (s : State) : (driveUnit s).cs = s.cs := rfl
@[simp] theorem driveUnit_cfg (s : State) : (driveUnit s).cfg = s.cfg := rfl
@[simp] theorem driveUnit_hold (s : State) : (driveUnit s).hold = s.hold := rfl
@[simp] theorem driveUnit_ext (s : State) : (driveUnit s).ext = s.ext := rfl

/-! ### `runTtt` -/

@[simp] theorem runTtt_csa (s : State) : (runTtt s).csa = s.csa := rfl
@[simp] theorem runTtt_ab (s : State) : (runTtt s).ab = s.ab := rfl
@[simp] theorem runTtt_bc (s : State) : (runTtt s).bc = s.bc := rfl
@[simp] theorem runTtt_dc (s : State) : (runTtt s).dc = s.dc := rfl
@[simp] theorem runTtt_buses (s : State) : (runTtt s).buses = s.buses := rfl
@[simp] theorem runTtt_cyc (s : State) : (runTtt s).cyc = s.cyc := rfl
@[simp] theorem runTtt_arb (s : State) : (runTtt s).arb = s.arb := rfl
@[simp] theorem runTtt_mem (s : State) : (runTtt s).mem = s.mem := rfl
@[simp] theorem runTtt_rom (s : State) : (runTtt s).rom = s.rom := rfl
@[simp] theorem runTtt_cs (s : State) : (runTtt s).cs = s.cs := rfl
@[simp] theorem runTtt_cfg (s : State) : (runTtt s).cfg = s.cfg := rfl
@[simp] theorem runTtt_hold (s : State) : (runTtt s).hold = s.hold := rfl
@[simp] theorem runTtt_ext (s : State) : (runTtt s).ext = s.ext := rfl

/-! ### `runTtm` -/

@[simp] theorem runTtm_csa (s : State) : (runTtm s).csa = s.csa := rfl
@[simp] theorem runTtm_ab (s : State) : (runTtm s).ab = s.ab := rfl
@[simp] theorem runTtm_bc (s : State) : (runTtm s).bc = s.bc := rfl
@[simp] theorem runTtm_dc (s : State) : (runTtm s).dc = s.dc := rfl
@[simp] theorem runTtm_buses (s : State) : (runTtm s).buses = s.buses := rfl
@[simp] theorem runTtm_cyc (s : State) : (runTtm s).cyc = s.cyc := rfl
@[simp] theorem runTtm_arb (s : State) : (runTtm s).arb = s.arb := rfl
@[simp] theorem runTtm_mem (s : State) : (runTtm s).mem = s.mem := rfl
@[simp] theorem runTtm_rom (s : State) : (runTtm s).rom = s.rom := rfl
@[simp] theorem runTtm_cs (s : State) : (runTtm s).cs = s.cs := rfl
@[simp] theorem runTtm_cfg (s : State) : (runTtm s).cfg = s.cfg := rfl
@[simp] theorem runTtm_hold (s : State) : (runTtm s).hold = s.hold := rfl
@[simp] theorem runTtm_ext (s : State) : (runTtm s).ext = s.ext := rfl

/-! ### `runXtr` -/

@[simp] theorem runXtr_csa (s : State) : (runXtr s).csa = s.csa := rfl
@[simp] theorem runXtr_regs (s : State) : (runXtr s).regs = s.regs := rfl
@[simp] theorem runXtr_ab (s : State) : (runXtr s).ab = s.ab := rfl
@[simp] theorem runXtr_bc (s : State) : (runXtr s).bc = s.bc := rfl
@[simp] theorem runXtr_dc (s : State) : (runXtr s).dc = s.dc := rfl
@[simp] theorem runXtr_cyc (s : State) : (runXtr s).cyc = s.cyc := rfl
@[simp] theorem runXtr_arb (s : State) : (runXtr s).arb = s.arb := rfl
@[simp] theorem runXtr_mem (s : State) : (runXtr s).mem = s.mem := rfl
@[simp] theorem runXtr_rom (s : State) : (runXtr s).rom = s.rom := rfl
@[simp] theorem runXtr_cs (s : State) : (runXtr s).cs = s.cs := rfl
@[simp] theorem runXtr_cfg (s : State) : (runXtr s).cfg = s.cfg := rfl
@[simp] theorem runXtr_hold (s : State) : (runXtr s).hold = s.hold := rfl
@[simp] theorem runXtr_ext (s : State) : (runXtr s).ext = s.ext := rfl

/-! ### `beginCycle` -/

@[simp] theorem beginCycle_csa (e : Entry) (s : State) : (beginCycle e s).csa = s.csa := rfl
@[simp] theorem beginCycle_regs (e : Entry) (s : State) : (beginCycle e s).regs = s.regs := rfl
@[simp] theorem beginCycle_ab (e : Entry) (s : State) : (beginCycle e s).ab = s.ab := rfl
@[simp] theorem beginCycle_bc (e : Entry) (s : State) : (beginCycle e s).bc = s.bc := rfl
@[simp] theorem beginCycle_dc (e : Entry) (s : State) : (beginCycle e s).dc = s.dc := rfl
@[simp] theorem beginCycle_buses (e : Entry) (s : State) : (beginCycle e s).buses = s.buses := rfl
@[simp] theorem beginCycle_arb (e : Entry) (s : State) : (beginCycle e s).arb = s.arb := rfl
@[simp] theorem beginCycle_mem (e : Entry) (s : State) : (beginCycle e s).mem = s.mem := rfl
@[simp] theorem beginCycle_rom (e : Entry) (s : State) : (beginCycle e s).rom = s.rom := rfl
@[simp] theorem beginCycle_cs (e : Entry) (s : State) : (beginCycle e s).cs = s.cs := rfl
@[simp] theorem beginCycle_cfg (e : Entry) (s : State) : (beginCycle e s).cfg = s.cfg := rfl
@[simp] theorem beginCycle_hold (e : Entry) (s : State) : (beginCycle e s).hold = s.hold := rfl
@[simp] theorem beginCycle_ext (e : Entry) (s : State) : (beginCycle e s).ext = s.ext := rfl

/-! ### `preload` -/

@[simp] theorem preload_csa (e : Entry) (s : State) : (preload e s).csa = s.csa := by
  unfold preload; split <;> rfl
@[simp] theorem preload_regs (e : Entry) (s : State) : (preload e s).regs = s.regs := by
  unfold preload; split <;> rfl
@[simp] theorem preload_ab (e : Entry) (s : State) : (preload e s).ab = s.ab := by
  unfold preload; split <;> rfl
@[simp] theorem preload_bc (e : Entry) (s : State) : (preload e s).bc = s.bc := by
  unfold preload; split <;> rfl
@[simp] theorem preload_dc (e : Entry) (s : State) : (preload e s).dc = s.dc := by
  unfold preload; split <;> rfl
@[simp] theorem preload_cyc (e : Entry) (s : State) : (preload e s).cyc = s.cyc := by
  unfold preload; split <;> rfl
@[simp] theorem preload_arb (e : Entry) (s : State) : (preload e s).arb = s.arb := by
  unfold preload; split <;> rfl
@[simp] theorem preload_mem (e : Entry) (s : State) : (preload e s).mem = s.mem := by
  unfold preload; split <;> rfl
@[simp] theorem preload_rom (e : Entry) (s : State) : (preload e s).rom = s.rom := by
  unfold preload; split <;> rfl
@[simp] theorem preload_cs (e : Entry) (s : State) : (preload e s).cs = s.cs := by
  unfold preload; split <;> rfl
@[simp] theorem preload_cfg (e : Entry) (s : State) : (preload e s).cfg = s.cfg := by
  unfold preload; split <;> rfl
@[simp] theorem preload_hold (e : Entry) (s : State) : (preload e s).hold = s.hold := by
  unfold preload; split <;> rfl
@[simp] theorem preload_ext (e : Entry) (s : State) : (preload e s).ext = s.ext := by
  unfold preload; split <;> rfl

/-! ### `armTargets` -/

@[simp] theorem armTargets_csa (e : Entry) (s : State) : (armTargets e s).csa = s.csa := by
  unfold armTargets; cases e.ttt <;> cases e.ttm <;> rfl
@[simp] theorem armTargets_ab (e : Entry) (s : State) : (armTargets e s).ab = s.ab := by
  unfold armTargets; cases e.ttt <;> cases e.ttm <;> rfl
@[simp] theorem armTargets_bc (e : Entry) (s : State) : (armTargets e s).bc = s.bc := by
  unfold armTargets; cases e.ttt <;> cases e.ttm <;> rfl
@[simp] theorem armTargets_dc (e : Entry) (s : State) : (armTargets e s).dc = s.dc := by
  unfold armTargets; cases e.ttt <;> cases e.ttm <;> rfl
@[simp] theorem armTargets_buses (e : Entry) (s : State) : (armTargets e s).buses = s.buses := by
  unfold armTargets; cases e.ttt <;> cases e.ttm <;> rfl
@[simp] theorem armTargets_cyc (e : Entry) (s : State) : (armTargets e s).cyc = s.cyc := by
  unfold armTargets; cases e.ttt <;> cases e.ttm <;> rfl
@[simp] theorem armTargets_arb (e : Entry) (s : State) : (armTargets e s).arb = s.arb := by
  unfold armTargets; cases e.ttt <;> cases e.ttm <;> rfl
@[simp] theorem armTargets_mem (e : Entry) (s : State) : (armTargets e s).mem = s.mem := by
  unfold armTargets; cases e.ttt <;> cases e.ttm <;> rfl
@[simp] theorem armTargets_rom (e : Entry) (s : State) : (armTargets e s).rom = s.rom := by
  unfold armTargets; cases e.ttt <;> cases e.ttm <;> rfl
@[simp] theorem armTargets_cs (e : Entry) (s : State) : (armTargets e s).cs = s.cs := by
  unfold armTargets; cases e.ttt <;> cases e.ttm <;> rfl
@[simp] theorem armTargets_cfg (e : Entry) (s : State) : (armTargets e s).cfg = s.cfg := by
  unfold armTargets; cases e.ttt <;> cases e.ttm <;> rfl
@[simp] theorem armTargets_hold (e : Entry) (s : State) : (armTargets e s).hold = s.hold := by
  unfold armTargets; cases e.ttt <;> cases e.ttm <;> rfl
@[simp] theorem armTargets_ext (e : Entry) (s : State) : (armTargets e s).ext = s.ext := by
  unfold armTargets; cases e.ttt <;> cases e.ttm <;> rfl

/-! ### `runS` -/

@[simp] theorem runS_csa (op : SOp) (s : State) : (runS op s).csa = s.csa := by
  cases op <;> simp [runS, runSZero, runSM, runST, runSAcc]
@[simp] theorem runS_ab (op : SOp) (s : State) : (runS op s).ab = s.ab := by
  cases op <;> simp [runS, runSZero, runSM, runST, runSAcc]
@[simp] theorem runS_bc (op : SOp) (s : State) : (runS op s).bc = s.bc := by
  cases op <;> simp [runS, runSZero, runSM, runST, runSAcc]
@[simp] theorem runS_dc (op : SOp) (s : State) : (runS op s).dc = s.dc := by
  cases op <;> simp [runS, runSZero, runSM, runST, runSAcc]
@[simp] theorem runS_cyc (op : SOp) (s : State) : (runS op s).cyc = s.cyc := by
  cases op <;> simp [runS, runSZero, runSM, runST, runSAcc]
@[simp] theorem runS_arb (op : SOp) (s : State) : (runS op s).arb = s.arb := by
  cases op <;> simp [runS, runSZero, runSM, runST, runSAcc]
@[simp] theorem runS_mem (op : SOp) (s : State) : (runS op s).mem = s.mem := by
  cases op <;> simp [runS, runSZero, runSM, runST, runSAcc]
@[simp] theorem runS_rom (op : SOp) (s : State) : (runS op s).rom = s.rom := by
  cases op <;> simp [runS, runSZero, runSM, runST, runSAcc]
@[simp] theorem runS_cs (op : SOp) (s : State) : (runS op s).cs = s.cs := by
  cases op <;> simp [runS, runSZero, runSM, runST, runSAcc]
@[simp] theorem runS_cfg (op : SOp) (s : State) : (runS op s).cfg = s.cfg := by
  cases op <;> simp [runS, runSZero, runSM, runST, runSAcc]
@[simp] theorem runS_hold (op : SOp) (s : State) : (runS op s).hold = s.hold := by
  cases op <;> simp [runS, runSZero, runSM, runST, runSAcc]
@[simp] theorem runS_ext (op : SOp) (s : State) : (runS op s).ext = s.ext := by
  cases op <;> simp [runS, runSZero, runSM, runST, runSAcc]

/-! ### `runX` -/

@[simp] theorem runX_csa (op : XOp) (s : State) : (runX op s).csa = s.csa := by
  cases op <;> simp [runX, runXNone, runXP, runXQ, runXAcc, runXE, runXDec, runXCab]
@[simp] theorem runX_bc (op : XOp) (s : State) : (runX op s).bc = s.bc := by
  cases op <;> simp [runX, runXNone, runXP, runXQ, runXAcc, runXE, runXDec, runXCab]
@[simp] theorem runX_dc (op : XOp) (s : State) : (runX op s).dc = s.dc := by
  cases op <;> simp [runX, runXNone, runXP, runXQ, runXAcc, runXE, runXDec, runXCab]
@[simp] theorem runX_buses (op : XOp) (s : State) : (runX op s).buses = s.buses := by
  cases op <;> simp [runX, runXNone, runXP, runXQ, runXAcc, runXE, runXDec, runXCab]
@[simp] theorem runX_arb (op : XOp) (s : State) : (runX op s).arb = s.arb := by
  cases op <;> simp [runX, runXNone, runXP, runXQ, runXAcc, runXE, runXDec, runXCab]
@[simp] theorem runX_mem (op : XOp) (s : State) : (runX op s).mem = s.mem := by
  cases op <;> simp [runX, runXNone, runXP, runXQ, runXAcc, runXE, runXDec, runXCab]
@[simp] theorem runX_rom (op : XOp) (s : State) : (runX op s).rom = s.rom := by
  cases op <;> simp [runX, runXNone, runXP, runXQ, runXAcc, runXE, runXDec, runXCab]
@[simp] theorem runX_cs (op : XOp) (s : State) : (runX op s).cs = s.cs := by
  cases op <;> simp [runX, runXNone, runXP, runXQ, runXAcc, runXE, runXDec, runXCab]
@[simp] theorem runX_cfg (op : XOp) (s : State) : (runX op s).cfg = s.cfg := by
  cases op <;> simp [runX, runXNone, runXP, runXQ, runXAcc, runXE, runXDec, runXCab]
@[simp] theorem runX_hold (op : XOp) (s : State) : (runX op s).hold = s.hold := by
  cases op <;> simp [runX, runXNone, runXP, runXQ, runXAcc, runXE, runXDec, runXCab]
@[simp] theorem runX_ext (op : XOp) (s : State) : (runX op s).ext = s.ext := by
  cases op <;> simp [runX, runXNone, runXP, runXQ, runXAcc, runXE, runXDec, runXCab]

/-! ### `runA` -/

@[simp] theorem runA_csa (op : AOp) (s : State) : (runA op s).csa = s.csa := by
  cases op <;> rfl
@[simp] theorem runA_regs (op : AOp) (s : State) : (runA op s).regs = s.regs := by
  cases op <;> rfl
@[simp] theorem runA_ab (op : AOp) (s : State) : (runA op s).ab = s.ab := by
  cases op <;> rfl
@[simp] theorem runA_bc (op : AOp) (s : State) : (runA op s).bc = s.bc := by
  cases op <;> rfl
@[simp] theorem runA_dc (op : AOp) (s : State) : (runA op s).dc = s.dc := by
  cases op <;> rfl
@[simp] theorem runA_arb (op : AOp) (s : State) : (runA op s).arb = s.arb := by
  cases op <;> rfl
@[simp] theorem runA_mem (op : AOp) (s : State) : (runA op s).mem = s.mem := by
  cases op <;> rfl
@[simp] theorem runA_rom (op : AOp) (s : State) : (runA op s).rom = s.rom := by
  cases op <;> rfl
@[simp] theorem runA_cs (op : AOp) (s : State) : (runA op s).cs = s.cs := by
  cases op <;> rfl
@[simp] theorem runA_cfg (op : AOp) (s : State) : (runA op s).cfg = s.cfg := by
  cases op <;> rfl
@[simp] theorem runA_hold (op : AOp) (s : State) : (runA op s).hold = s.hold := by
  cases op <;> rfl
@[simp] theorem runA_ext (op : AOp) (s : State) : (runA op s).ext = s.ext := by
  cases op <;> rfl

/-! ### `specialCase` -/

@[simp] theorem specialCase_csa (op : XOp) (s : State) : (specialCase op s).csa = s.csa := by
  cases op <;> rfl
@[simp] theorem specialCase_ab (op : XOp) (s : State) : (specialCase op s).ab = s.ab := by
  cases op <;> rfl
@[simp] theorem specialCase_bc (op : XOp) (s : State) : (specialCase op s).bc = s.bc := by
  cases op <;> rfl
@[simp] theorem specialCase_dc (op : XOp) (s : State) : (specialCase op s).dc = s.dc := by
  cases op <;> rfl
@[simp] theorem specialCase_buses (op : XOp) (s : State) : (specialCase op s).buses = s.buses := by
  cases op <;> rfl
@[simp] theorem specialCase_cyc (op : XOp) (s : State) : (specialCase op s).cyc = s.cyc := by
  cases op <;> rfl
@[simp] theorem specialCase_arb (op : XOp) (s : State) : (specialCase op s).arb = s.arb := by
  cases op <;> rfl
@[simp] theorem specialCase_mem (op : XOp) (s : State) : (specialCase op s).mem = s.mem := by
  cases op <;> rfl
@[simp] theorem specialCase_rom (op : XOp) (s : State) : (specialCase op s).rom = s.rom := by
  cases op <;> rfl
@[simp] theorem specialCase_cs (op : XOp) (s : State) : (specialCase op s).cs = s.cs := by
  cases op <;> rfl
@[simp] theorem specialCase_cfg (op : XOp) (s : State) : (specialCase op s).cfg = s.cfg := by
  cases op <;> rfl
@[simp] theorem specialCase_hold (op : XOp) (s : State) : (specialCase op s).hold = s.hold := by
  cases op <;> rfl
@[simp] theorem specialCase_ext (op : XOp) (s : State) : (specialCase op s).ext = s.ext := by
  cases op <;> rfl

/-! ### `pulse` -/

@[simp] theorem pulse_csa (s : State) : (pulse s).csa = s.csa := rfl
@[simp] theorem pulse_ab (s : State) : (pulse s).ab = s.ab := rfl
@[simp] theorem pulse_bc (s : State) : (pulse s).bc = s.bc := rfl
@[simp] theorem pulse_dc (s : State) : (pulse s).dc = s.dc := rfl
@[simp] theorem pulse_buses (s : State) : (pulse s).buses = s.buses := rfl
@[simp] theorem pulse_arb (s : State) : (pulse s).arb = s.arb := rfl
@[simp] theorem pulse_mem (s : State) : (pulse s).mem = s.mem := rfl
@[simp] theorem pulse_rom (s : State) : (pulse s).rom = s.rom := rfl
@[simp] theorem pulse_cs (s : State) : (pulse s).cs = s.cs := rfl
@[simp] theorem pulse_cfg (s : State) : (pulse s).cfg = s.cfg := rfl
@[simp] theorem pulse_hold (s : State) : (pulse s).hold = s.hold := rfl
@[simp] theorem pulse_ext (s : State) : (pulse s).ext = s.ext := rfl

/-! ### `nextAddress` -/

@[simp] theorem nextAddress_regs (e : Entry) (s : State) : (nextAddress e s).regs = s.regs := rfl
@[simp] theorem nextAddress_ab (e : Entry) (s : State) : (nextAddress e s).ab = s.ab := rfl
@[simp] theorem nextAddress_bc (e : Entry) (s : State) : (nextAddress e s).bc = s.bc := rfl
@[simp] theorem nextAddress_dc (e : Entry) (s : State) : (nextAddress e s).dc = s.dc := rfl
@[simp] theorem nextAddress_buses (e : Entry) (s : State) : (nextAddress e s).buses = s.buses := rfl
@[simp] theorem nextAddress_cyc (e : Entry) (s : State) : (nextAddress e s).cyc = s.cyc := rfl
@[simp] theorem nextAddress_arb (e : Entry) (s : State) : (nextAddress e s).arb = s.arb := rfl
@[simp] theorem nextAddress_mem (e : Entry) (s : State) : (nextAddress e s).mem = s.mem := rfl
@[simp] theorem nextAddress_rom (e : Entry) (s : State) : (nextAddress e s).rom = s.rom := rfl
@[simp] theorem nextAddress_cs (e : Entry) (s : State) : (nextAddress e s).cs = s.cs := rfl
@[simp] theorem nextAddress_cfg (e : Entry) (s : State) : (nextAddress e s).cfg = s.cfg := rfl
@[simp] theorem nextAddress_hold (e : Entry) (s : State) : (nextAddress e s).hold = s.hold := rfl
@[simp] theorem nextAddress_ext (e : Entry) (s : State) : (nextAddress e s).ext = s.ext := rfl

/-! ### `endCycle` -/

@[simp] theorem endCycle_csa (s : State) : (endCycle s).csa = s.csa := rfl
@[simp] theorem endCycle_ab (s : State) : (endCycle s).ab = s.ab := rfl
@[simp] theorem endCycle_bc (s : State) : (endCycle s).bc = s.bc := rfl
@[simp] theorem endCycle_dc (s : State) : (endCycle s).dc = s.dc := rfl
@[simp] theorem endCycle_arb (s : State) : (endCycle s).arb = s.arb := rfl
@[simp] theorem endCycle_mem (s : State) : (endCycle s).mem = s.mem := rfl
@[simp] theorem endCycle_rom (s : State) : (endCycle s).rom = s.rom := rfl
@[simp] theorem endCycle_cs (s : State) : (endCycle s).cs = s.cs := rfl
@[simp] theorem endCycle_cfg (s : State) : (endCycle s).cfg = s.cfg := rfl
@[simp] theorem endCycle_hold (s : State) : (endCycle s).hold = s.hold := rfl
@[simp] theorem endCycle_ext (s : State) : (endCycle s).ext = s.ext := rfl

/-! ### `State.place` -/

@[simp] theorem State.place_csa (s : State) (w : ControlWord) : (s.place w).csa = s.csa := rfl
@[simp] theorem State.place_regs (s : State) (w : ControlWord) : (s.place w).regs = s.regs := rfl
@[simp] theorem State.place_ab (s : State) (w : ControlWord) : (s.place w).ab = s.ab := rfl
@[simp] theorem State.place_bc (s : State) (w : ControlWord) : (s.place w).bc = s.bc := rfl
@[simp] theorem State.place_dc (s : State) (w : ControlWord) : (s.place w).dc = s.dc := rfl
@[simp] theorem State.place_buses (s : State) (w : ControlWord) : (s.place w).buses = s.buses := rfl
@[simp] theorem State.place_cyc (s : State) (w : ControlWord) : (s.place w).cyc = s.cyc := rfl
@[simp] theorem State.place_arb (s : State) (w : ControlWord) : (s.place w).arb = s.arb := rfl
@[simp] theorem State.place_mem (s : State) (w : ControlWord) : (s.place w).mem = s.mem := rfl
@[simp] theorem State.place_rom (s : State) (w : ControlWord) : (s.place w).rom = s.rom := rfl
@[simp] theorem State.place_cfg (s : State) (w : ControlWord) : (s.place w).cfg = s.cfg := rfl

/-! ### What the updates set -/

@[simp] theorem State.driveR_buses (s : State) (d : Driver) : (s.driveR d).buses = { s.buses with rbus := some d } := rfl
@[simp] theorem State.driveS_buses (s : State) (d : Driver) : (s.driveS d).buses = { s.buses with sbus := some d } := rfl
@[simp] theorem setBusy_arb (v : Bool) (s : State) : (setBusy v s).arb = { s.arb with bsy := v } := rfl
@[simp] theorem afterCall_ext (c : DevCall) (s : State) :
    (afterCall c s).ext = { s.ext with answers := s.ext.answers.tail, calls := c :: s.ext.calls } := rfl
@[simp] theorem runIoClf_arb (s : State) : (runIoClf s).arb = { s.arb with rdy := false } := rfl
@[simp] theorem ioEnd_arb (hc : Bool) (s : State) : (ioEnd hc s).arb = { s.arb with rdy := s.arb.rdy && !hc } := by
  cases hc <;> simp [ioEnd]
@[simp] theorem leaveAcknowledged_arb (sc : BitVec 5) (s : State) :
    (leaveAcknowledged sc s).arb = { s.arb with ssf := false, sel := sc.setWidth 4 } := rfl
@[simp] theorem endCycle_buses (s : State) : (endCycle s).buses = Buses.idle := rfl
@[simp] theorem endCycle_cyc (s : State) : (endCycle s).cyc = Cycle.idle := rfl
@[simp] theorem endCycle_regs (s : State) : (endCycle s).regs = s.regs.release := rfl
@[simp] theorem nextAddress_csa (e : Entry) (s : State) : (nextAddress e s).csa = s.csa ^^^ nextMask e s.cyc.brt := rfl
@[simp] theorem pulse_regs (s : State) : (pulse s).regs = s.regs.pulse allRegs s.buses.tbus := rfl
@[simp] theorem powerOnPreset_csa (s : State) : (powerOnPreset s).csa = 255 := rfl
@[simp] theorem powerOnPreset_buses (s : State) : (powerOnPreset s).buses = Buses.idle := rfl
@[simp] theorem State.setAcc_acc (s : State) (r : BitReg) : (s.setAcc r).acc = r := by
  unfold State.setAcc State.acc; split <;> simp_all
@[simp] theorem State.setAcc_accName (s : State) (r : BitReg) : (s.setAcc r).accName = s.accName := by
  simp [State.accName]
theorem State.setAcc_regs (s : State) (r : BitReg) :
    (s.setAcc r).regs = if s.ab then { s.regs with b := r } else { s.regs with a := r } := by
  unfold State.setAcc; split <;> rfl

/-! ### Registers through the release of step 12 (R129, R212) -/

@[simp] theorem BitReg.release_width (n : RegName) (r : BitReg) : (r.release n).width = r.width := rfl
@[simp] theorem BitReg.release_word (n : RegName) (r : BitReg) : (r.release n).word = r.word := rfl
@[simp] theorem BitReg.release_nat (n : RegName) (r : BitReg) : (r.release n).nat = r.nat := rfl
@[simp] theorem BitReg.release_bit (n : RegName) (r : BitReg) (i : Nat) : (r.release n).bit i = r.bit i := rfl
@[simp] theorem BitReg.release_src (n : RegName) (r : BitReg) : (r.release n).src = .reg n := rfl
@[simp] theorem BitReg.release_en (n : RegName) (r : BitReg) : (r.release n).en = false := rfl
@[simp] theorem BitReg.release_lat (n : RegName) (r : BitReg) : (r.release n).lat = r.lat := rfl
@[simp] theorem BitReg.enable_width (r : BitReg) : r.enable.width = r.width := rfl
@[simp] theorem BitReg.enable_word (r : BitReg) : r.enable.word = r.word := rfl
@[simp] theorem BitReg.enable_nat (r : BitReg) : r.enable.nat = r.nat := rfl
@[simp] theorem BitReg.enable_bit (r : BitReg) (i : Nat) : r.enable.bit i = r.bit i := rfl
@[simp] theorem BitReg.enable_src (r : BitReg) : r.enable.src = r.src := rfl
@[simp] theorem BitReg.enable_en (r : BitReg) : r.enable.en = true := rfl
@[simp] theorem BitReg.enable_lat (r : BitReg) : r.enable.lat = r.lat := rfl
@[simp] theorem BitReg.arm_width (r : BitReg) : r.arm.width = r.width := rfl
@[simp] theorem BitReg.arm_word (r : BitReg) : r.arm.word = r.word := rfl
@[simp] theorem BitReg.arm_nat (r : BitReg) : r.arm.nat = r.nat := rfl
@[simp] theorem BitReg.arm_bit (r : BitReg) (i : Nat) : r.arm.bit i = r.bit i := rfl
@[simp] theorem BitReg.arm_src (r : BitReg) : r.arm.src = .tbus := rfl
@[simp] theorem BitReg.arm_en (r : BitReg) : r.arm.en = true := rfl
@[simp] theorem BitReg.arm_lat (r : BitReg) : r.arm.lat = r.lat := rfl
@[simp] theorem BitReg.setSource_width (x : Source) (r : BitReg) : (r.setSource x).width = r.width := rfl
@[simp] theorem BitReg.setSource_word (x : Source) (r : BitReg) : (r.setSource x).word = r.word := rfl
@[simp] theorem BitReg.setSource_nat (x : Source) (r : BitReg) : (r.setSource x).nat = r.nat := rfl
@[simp] theorem BitReg.setSource_bit (x : Source) (r : BitReg) (i : Nat) : (r.setSource x).bit i = r.bit i := rfl
@[simp] theorem BitReg.setSource_src (x : Source) (r : BitReg) : (r.setSource x).src = x := rfl
@[simp] theorem BitReg.setSource_en (x : Source) (r : BitReg) : (r.setSource x).en = r.en := rfl
@[simp] theorem BitReg.setSource_lat (x : Source) (r : BitReg) : (r.setSource x).lat = r.lat := rfl
@[simp] theorem BitReg.wiredAs_width (old : BitReg) (r : BitReg) : (r.wiredAs old).width = r.width := rfl
@[simp] theorem BitReg.wiredAs_word (old : BitReg) (r : BitReg) : (r.wiredAs old).word = r.word := rfl
@[simp] theorem BitReg.wiredAs_nat (old : BitReg) (r : BitReg) : (r.wiredAs old).nat = r.nat := rfl
@[simp] theorem BitReg.wiredAs_bit (old : BitReg) (r : BitReg) (i : Nat) : (r.wiredAs old).bit i = r.bit i := rfl
@[simp] theorem BitReg.wiredAs_src (old : BitReg) (r : BitReg) : (r.wiredAs old).src = old.src := rfl
@[simp] theorem BitReg.wiredAs_en (old : BitReg) (r : BitReg) : (r.wiredAs old).en = old.en := rfl
@[simp] theorem BitReg.wiredAs_lat (old : BitReg) (r : BitReg) : (r.wiredAs old).lat = r.lat := rfl
@[simp] theorem BitReg.load_width {w : Nat} (v : BitVec w) (r : BitReg) : (r.load v).width = r.width := rfl
@[simp] theorem BitReg.load_src {w : Nat} (v : BitVec w) (r : BitReg) : (r.load v).src = r.src := rfl
@[simp] theorem BitReg.load_en {w : Nat} (v : BitVec w) (r : BitReg) : (r.load v).en = r.en := rfl
@[simp] theorem BitReg.load_lat {w : Nat} (v : BitVec w) (r : BitReg) : (r.load v).lat = r.lat := rfl
@[simp] theorem Regs.release_iorByte (r : Regs) : r.release.iorByte = r.iorByte := rfl
@[simp] theorem Regs.pulse_iorByte (g : RegName → Bool) (b : Bool) (r : Regs) : (r.pulse g b).iorByte = r.iorByte := rfl

end Sys2Proof.Machine
end

