-- ==== Sys2Proof/Laws/BitReg.lean ====
section
/-! SUPPORT. The bit register, bit by bit (spec/40_bit_register.md R120 to R132), and the pulse of the register file (R125). -/

namespace Sys2Proof.Machine

/-- A right shift by one with a bit entering at the top, bit by bit (R124). -/
theorem getLsbD_shiftIn {w : Nat} (b : Bool) (v : BitVec w) (i : Nat) :
    (shiftIn b v).getLsbD i = if i + 1 = w then b else v.getLsbD (i + 1) := by
  unfold shiftIn
  rw [BitVec.getLsbD_or, BitVec.getLsbD_ushiftRight, BitVec.getLsbD_shiftLeft, BitVec.getLsbD_setWidth, BitVec.getLsbD_ofBool]
  have hv : ∀ j, w ≤ j → v.getLsbD j = false := fun j hj => BitVec.getLsbD_of_ge v j hj
  by_cases h : i + 1 = w
  · rw [hv (1 + i) (by omega), if_pos h]
    have h1 : i - (w - 1) = 0 := by omega
    have h2 : i < w := by omega
    have h3 : ¬ i < w - 1 := by omega
    have h4 : 0 < w := by omega
    simp [h1, h2, h3, h4]
  · rw [if_neg h, Nat.add_comm 1 i]
    by_cases h5 : i < w - 1
    · simp [h5]
    · simp [show ¬ i < w by omega, hv (i + 1) (by omega)]

@[simp] theorem BitReg.outBit_eq (r : BitReg) : r.outBit = r.bit 0 := rfl

/-- A register whose shifting is off does not take part in a pulse (R123, R124). -/
@[simp] theorem BitReg.loadInput_off {r : BitReg} (h : r.en = false) (b : Bool) : r.loadInput b = r := by
  simp [BitReg.loadInput, h]
@[simp] theorem BitReg.shift_off {r : BitReg} (h : r.en = false) : r.shift = r := by
  simp [BitReg.shift, h]
@[simp] theorem BitReg.shiftSel_off {r : BitReg} (h : r.en = false) (byte : Bool) : r.shiftSel byte = r := by
  simp [BitReg.shiftSel, h]

/-- One pulse of an enabled register: the latched bit enters at the top (R125). -/
theorem BitReg.pulse_on {r : BitReg} (h : r.en = true) (b : Bool) :
    (r.loadInput b).shift = { r with val := shiftIn b r.val, lat := b } := by
  obtain ⟨w, v, x, e, l⟩ := r
  cases h
  rfl

theorem BitReg.pulseSel_on {r : BitReg} (h : r.en = true) (byte b : Bool) :
    (r.loadInput b).shiftSel byte =
      { r with val := if byte then shiftInByte b r.val else shiftIn b r.val, lat := b } := by
  obtain ⟨w, v, x, e, l⟩ := r
  cases h
  rfl

/-- All that a pulse of the register file does (R125): each register of the set takes the bit its source held before the pulse. -/
theorem Regs.pulse_eq (g : RegName → Bool) (tbus : Bool) (r : Regs) :
    r.pulse g tbus = { r with
      a := if g .A then (r.a.loadInput (r.sourceBit tbus r.a.src)).shift else r.a
      b := if g .B then (r.b.loadInput (r.sourceBit tbus r.b.src)).shift else r.b
      t := if g .T then (r.t.loadInput (r.sourceBit tbus r.t.src)).shift else r.t
      m := if g .M then (r.m.loadInput (r.sourceBit tbus r.m.src)).shift else r.m
      p := if g .P then (r.p.loadInput (r.sourceBit tbus r.p.src)).shift else r.p
      q := if g .Q then (r.q.loadInput (r.sourceBit tbus r.q.src)).shift else r.q
      e := if g .E then (r.e.loadInput (r.sourceBit tbus r.e.src)).shift else r.e
      ior := if g .IOR then (r.ior.loadInput (r.sourceBit tbus r.ior.src)).shiftSel r.iorByte else r.ior
      aux := if g .AUX then (r.aux.loadInput (r.sourceBit tbus r.aux.src)).shift else r.aux } := by
  unfold Regs.pulse Regs.shifts Regs.loadInputs
  congr 1 <;> (dsimp only; split <;> rfl)

/-- The engine's pulse: every enabled register moves (R206). -/
theorem Regs.pulse_all (tbus : Bool) (r : Regs) :
    r.pulse allRegs tbus = { r with
      a := (r.a.loadInput (r.sourceBit tbus r.a.src)).shift
      b := (r.b.loadInput (r.sourceBit tbus r.b.src)).shift
      t := (r.t.loadInput (r.sourceBit tbus r.t.src)).shift
      m := (r.m.loadInput (r.sourceBit tbus r.m.src)).shift
      p := (r.p.loadInput (r.sourceBit tbus r.p.src)).shift
      q := (r.q.loadInput (r.sourceBit tbus r.q.src)).shift
      e := (r.e.loadInput (r.sourceBit tbus r.e.src)).shift
      ior := (r.ior.loadInput (r.sourceBit tbus r.ior.src)).shiftSel r.iorByte
      aux := (r.aux.loadInput (r.sourceBit tbus r.aux.src)).shift } := by
  rw [Regs.pulse_eq]; rfl

/-- The bindings do not change in a pulse. -/
theorem BitReg.pulse_src (r : BitReg) (b : Bool) : (r.loadInput b).shift.src = r.src := by
  unfold BitReg.loadInput BitReg.shift; split_ifs <;> rfl
theorem BitReg.pulse_en (r : BitReg) (b : Bool) : (r.loadInput b).shift.en = r.en := by
  unfold BitReg.loadInput BitReg.shift; split_ifs <;> rfl

@[simp] theorem BitReg.loadInput_src (b : Bool) (r : BitReg) : (r.loadInput b).src = r.src := by
  unfold BitReg.loadInput; split <;> rfl
@[simp] theorem BitReg.loadInput_en (b : Bool) (r : BitReg) : (r.loadInput b).en = r.en := by
  unfold BitReg.loadInput; split <;> rfl
@[simp] theorem BitReg.shiftSel_src (byte : Bool) (r : BitReg) : (r.shiftSel byte).src = r.src := by
  unfold BitReg.shiftSel; split <;> rfl
@[simp] theorem BitReg.shiftSel_en (byte : Bool) (r : BitReg) : (r.shiftSel byte).en = r.en := by
  unfold BitReg.shiftSel; split <;> rfl

/-- A byte rotation, bit by bit (R131). -/
theorem getLsbD_shiftInByte {w : Nat} (hw : 8 ≤ w) (b : Bool) (v : BitVec w) (i : Nat) :
    (shiftInByte b v).getLsbD i = if i < 7 then v.getLsbD (i + 1) else if i = 7 then b else v.getLsbD i := by
  unfold shiftInByte
  split
  · have h8 : w = 8 := by omega
    subst h8
    rw [getLsbD_shiftIn]
    by_cases h : i < 7
    · simp [h, show i + 1 ≠ 8 by omega]
    · by_cases h7 : i = 7
      · simp [h7]
      · simp [h, h7, BitVec.getLsbD_of_ge v i (by omega), BitVec.getLsbD_of_ge v (i + 1) (by omega)]
  · rw [BitVec.getLsbD_setWidth, BitVec.getLsbD_append, getLsbD_shiftIn, BitVec.getLsbD_extractLsb', BitVec.getLsbD_extractLsb']
    by_cases h : i < 8
    · by_cases h7 : i = 7
      · simp [h7, show 7 < w by omega]
      · simp [h, show i < 7 by omega, show i + 1 ≠ 8 by omega, show i + 1 < 8 by omega, show i < w by omega]
    · by_cases hi : i < w
      · simp [h, hi, show ¬ i < 7 by omega, show i ≠ 7 by omega, show i - 8 < w - 8 by omega, show 8 + (i - 8) = i by omega]
      · simp [hi, show ¬ i < 7 by omega, show i ≠ 7 by omega, BitVec.getLsbD_of_ge v i (by omega)]

/-! ### A register's bits, word and width -/

theorem BitReg.getLsbD_word (r : BitReg) (i : Nat) : r.word.getLsbD i = (decide (i < 16) && r.bit i) := by
  simp [BitReg.word, BitReg.bit]

@[simp] theorem BitReg.word_getElem_zero (r : BitReg) : r.word[0] = r.bit 0 := by
  simp [← BitVec.getLsbD_eq_getElem, BitReg.getLsbD_word]

theorem BitReg.testBit_nat (r : BitReg) (i : Nat) : r.nat.testBit i = r.bit i := rfl

theorem BitReg.bit_of_ge {r : BitReg} {i : Nat} (h : r.width ≤ i) : r.bit i = false :=
  BitVec.getLsbD_of_ge r.val i h

theorem BitReg.nat_lt (r : BitReg) : r.nat < 2 ^ r.width :=
  r.val.isLt

/-- A register of 16 bits is its word. -/
theorem BitReg.word_toNat {r : BitReg} (h : r.width = 16) : r.word.toNat = r.nat := by
  have := r.nat_lt
  rw [h] at this
  simp only [BitReg.word, BitVec.toNat_setWidth]
  exact Nat.mod_eq_of_lt this

/-- Two registers of the same value have the same word. -/
theorem BitReg.word_of_nat {r u : BitReg} (h : r.nat = u.nat) : r.word = u.word := by
  apply BitVec.eq_of_toNat_eq
  simp only [BitReg.word, BitVec.toNat_setWidth]
  exact congrArg (· % 2 ^ 16) h

/-- Two registers of 16 bits with the same word have the same value. -/
theorem BitReg.nat_of_word {r u : BitReg} (hr : r.width = 16) (hu : u.width = 16) (h : r.word = u.word) : r.nat = u.nat := by
  rw [← BitReg.word_toNat hr, ← BitReg.word_toNat hu, h]

/-- Two registers of the same bits have the same value. -/
theorem BitReg.nat_of_bits {r u : BitReg} (h : ∀ i, r.bit i = u.bit i) : r.nat = u.nat :=
  Nat.eq_of_testBit_eq h

@[simp] theorem BitReg.load_bit {w : Nat} (v : BitVec w) (r : BitReg) (i : Nat) :
    (r.load v).bit i = (decide (i < r.width) && v.getLsbD i) := by
  simp [BitReg.load, BitReg.bit]

/-- A parallel load of a 16-bit register. -/
theorem BitReg.load_word {r : BitReg} (h : r.width = 16) (v : Word) : (r.load v).word = v := by
  apply BitVec.eq_of_getLsbD_eq
  intro i hi
  rw [BitReg.getLsbD_word, BitReg.load_bit, h]
  simp [hi]

@[simp] theorem BitReg.loadInput_width (b : Bool) (r : BitReg) : (r.loadInput b).width = r.width := by
  unfold BitReg.loadInput; split <;> rfl
@[simp] theorem BitReg.shift_width (r : BitReg) : r.shift.width = r.width := by
  unfold BitReg.shift; split <;> rfl
@[simp] theorem BitReg.shiftSel_width (byte : Bool) (r : BitReg) : (r.shiftSel byte).width = r.width := by
  unfold BitReg.shiftSel; split <;> rfl

/-- One pulse, bit by bit: the input bit enters at the top (R124, R125). -/
theorem BitReg.pulse_bit {r : BitReg} (h : r.en = true) (b : Bool) (i : Nat) :
    (r.loadInput b).shift.bit i = if i + 1 = r.width then b else r.bit (i + 1) := by
  rw [BitReg.pulse_on h]
  exact getLsbD_shiftIn b r.val i

/-- One pulse of a 16-bit register, as a word. -/
theorem BitReg.pulse_word {r : BitReg} (h : r.en = true) (hw : r.width = 16) (b : Bool) :
    (r.loadInput b).shift.word = shiftIn b r.word := by
  apply BitVec.eq_of_getLsbD_eq
  intro i hi
  rw [BitReg.getLsbD_word, BitReg.pulse_bit h, getLsbD_shiftIn, BitReg.getLsbD_word, hw]
  by_cases h1 : i + 1 = 16
  · simp [h1, hi]
  · simp [h1, hi, show i + 1 < 16 by omega]

@[simp] theorem BitReg.shiftSel_false (r : BitReg) : r.shiftSel false = r.shift := by
  simp [BitReg.shiftSel, BitReg.shift]

/-- One pulse of `IOR` rotating its low byte, bit by bit (R131). -/
theorem BitReg.pulseByte_bit {r : BitReg} (h : r.en = true) (hw : 8 ≤ r.width) (b : Bool) (i : Nat) :
    ((r.loadInput b).shiftSel true).bit i = if i < 7 then r.bit (i + 1) else if i = 7 then b else r.bit i := by
  rw [BitReg.pulseSel_on h]
  exact getLsbD_shiftInByte hw b r.val i

/-- One pulse of a 16-bit `IOR` under its selector, as a word (R131). -/
theorem BitReg.pulseSel_word {r : BitReg} (h : r.en = true) (hw : r.width = 16) (byte b : Bool) :
    ((r.loadInput b).shiftSel byte).word = if byte then shiftInByte b r.word else shiftIn b r.word := by
  cases byte
  · rw [BitReg.shiftSel_false, BitReg.pulse_word h hw]; rfl
  · apply BitVec.eq_of_getLsbD_eq
    intro i hi
    rw [BitReg.getLsbD_word, BitReg.pulseByte_bit h (by omega), if_pos rfl, getLsbD_shiftInByte (by omega), BitReg.getLsbD_word,
      BitReg.getLsbD_word]
    by_cases h7 : i < 7
    · simp [h7, hi, show i + 1 < 16 by omega]
    · simp [h7, hi]

/-- A write of one bit, bit by bit (R130, R207). -/
theorem getLsbD_setBit {w : Nat} (pos : Nat) (b : Bool) (v : BitVec w) (i : Nat) :
    (setBit pos b v).getLsbD i = if i = pos ∧ pos < w then b else v.getLsbD i := by
  unfold setBit
  simp only [BitVec.getLsbD_or, BitVec.getLsbD_and, BitVec.getLsbD_not, BitVec.getLsbD_shiftLeft, BitVec.getLsbD_one,
    BitVec.getLsbD_setWidth, BitVec.getLsbD_ofBool]
  by_cases hw : i < w
  · by_cases h : i = pos
    · subst h; simp [hw, show 0 < w by omega]
    · rcases Nat.lt_or_gt_of_ne h with h1 | h1
      · simp [h, hw, h1]
      · simp [h, hw, show ¬ i < pos by omega, show i - pos ≠ 0 by omega]
  · rw [BitVec.getLsbD_of_ge v i (by omega)]
    simp [hw]
    omega

/-- The shift of a tap register writes its value alone (R130). -/
@[simp] theorem TapReg.shift_src {w : Nat} (r : TapReg w) : r.shift.src = r.src := by
  unfold TapReg.shift; split <;> rfl
@[simp] theorem TapReg.shift_en {w : Nat} (r : TapReg w) : r.shift.en = r.en := by
  unfold TapReg.shift; split <;> rfl
@[simp] theorem TapReg.shift_tap {w : Nat} (r : TapReg w) : r.shift.tap = r.tap := by
  unfold TapReg.shift; split <;> rfl
@[simp] theorem TapReg.shift_lat {w : Nat} (r : TapReg w) : r.shift.lat = r.lat := by
  unfold TapReg.shift; split <;> rfl

/-- Every binding is to itself and off after step 12 (R129, R212). -/
theorem Regs.release_off (r : Regs) :
    r.release.a.src = .reg .A ∧ r.release.a.en = false ∧ r.release.b.src = .reg .B ∧ r.release.b.en = false ∧
    r.release.t.src = .reg .T ∧ r.release.t.en = false ∧ r.release.m.src = .reg .M ∧ r.release.m.en = false ∧
    r.release.p.src = .reg .P ∧ r.release.p.en = false ∧ r.release.q.src = .reg .Q ∧ r.release.q.en = false ∧
    r.release.e.src = .reg .E ∧ r.release.e.en = false ∧ r.release.ior.src = .reg .IOR ∧ r.release.ior.en = false ∧
    r.release.aux.src = .reg .AUX ∧ r.release.aux.en = false := by
  simp [Regs.release]

end Sys2Proof.Machine
end

