-- ==== Sys2Proof/Laws/Construct.lean ====
section
/-! SUPPORT. Construction (spec/70_reset_and_hazards.md R331 to R335): when it answers a machine, and which. -/

namespace Sys2Proof.Machine

/-- The checks of the tables pass exactly where each of the three holds (R227 (a), R346, R235). -/
theorem checkTables_eq_ok_iff (ops : OpTable) (alu bcd : Vector (BitVec 8) 256) :
    checkTables ops alu bcd = .ok () ↔
      additionCheck ops alu = true ∧ skipCheck ops alu = true ∧ decimalCheck ops alu bcd = true := by
  unfold checkTables
  cases additionCheck ops alu <;> cases skipCheck ops alu <;> cases decimalCheck ops alu bcd <;> simp

/-- Construction answers a machine exactly where every dump reads, every code has its operation and the tables pass their checks; the
machine is then the assembled one (R331, R333, R334). -/
theorem construct_eq_ok_iff (files : RomFiles) (ops : OpSource) (devices : List DirEntry) (init t : State) :
    construct files ops devices init = .ok t ↔
      ∃ cs alu bcd o, controlValues files.cs = .ok cs ∧ dumpValues files.alu = .ok alu ∧ dumpValues files.bcd = .ok bcd ∧
        ops.table = .ok o ∧ checkTables o (tableOf alu) (tableOf bcd) = .ok () ∧ t = assembled o cs alu bcd devices init := by
  unfold construct
  cases controlValues files.cs <;> cases dumpValues files.alu <;> cases dumpValues files.bcd <;> cases ops.table <;>
    simp [bind, Except.bind, pure, Except.pure]
  rename_i cs alu bcd o
  cases checkTables o (tableOf alu) (tableOf bcd) <;> simp [eq_comm]

/-- A table's own entries, read as line values, are the table. -/
theorem tableOf_toNat (v : Vector (BitVec 8) 256) : tableOf (v.toList.map BitVec.toNat) = v := by
  ext i hi
  simp [tableOf, hi]

/-- A column without a gap is the column of its operations. -/
theorem column_eq_map_some {α : Type} [BEq α] [LawfulBEq α] {n : Nat} (v : Vector (Option α) n) (d : α) :
    v.contains none = false ↔ v = (v.map (·.getD d)).map some := by
  simp only [Vector.contains_eq_mem, decide_eq_false_iff_not]
  constructor
  · intro h
    ext i hi x
    have hx : v[i] ≠ none := fun e => h (e ▸ Vector.getElem_mem hi)
    cases hv : v[i] <;> simp_all
  · intro h hm
    rw [h] at hm
    simp at hm

/-- The operations of a source that assigns every code of every column (R97, R99). -/
theorem OpSource.table_eq_ok_iff (o : OpSource) (t : OpTable) :
    o.table = .ok t ↔ o = opSourceOf t := by
  unfold OpSource.table
  constructor
  · intro h
    split at h
    · cases h
    · rename_i hc
      simp only [Bool.or_eq_true, not_or, Bool.not_eq_true] at hc
      obtain ⟨⟨⟨hs, hr⟩, hx⟩, ha⟩ := hc
      cases h
      cases o
      simp only [opSourceOf, OpSource.mk.injEq]
      exact ⟨(column_eq_map_some _ _).1 hs, (column_eq_map_some _ _).1 hr, (column_eq_map_some _ _).1 hx,
        (column_eq_map_some _ _).1 ha⟩
  · rintro rfl
    simp [opSourceOf, Function.comp_def]

end Sys2Proof.Machine
end

