-- ==== Sys2Proof/Laws/Flags.lean ====
section
/-! SUPPORT. The tables and the carries (spec/43_alu_bcd.md): what an entry of the reference tables is, what one evaluation and the
commits do. -/

namespace Sys2Proof.Machine

/-- REF_ALU is the reference entry at every index (R227). -/
theorem tableAt_refAlu (i : BitVec 8) : tableAt refAlu i = refAluAt i := by
  have h : i.toNat < 256 := i.isLt
  simp [tableAt, refAlu]

/-- REF_BCD is the reference entry at every index (R232). -/
theorem tableAt_refBcd (i : BitVec 8) : tableAt refBcd i = refBcdAt i := by
  have h : i.toNat < 256 := i.isLt
  simp [tableAt, refBcd]

/-- An index of REF_ALU by its fields: `DM` and the accumulator bit do not matter (R223, R227). -/
theorem refAluAt_aluIndex (op : AOp) (cw dm a0 sb rb : Bool) :
    refAluAt (aluIndex op.code cw dm a0 sb rb) = aluEntryOf (refUpdates op) (refCarry op rb sb cw) (refResult op rb sb cw) := by
  cases op <;> cases cw <;> cases dm <;> cases a0 <;> cases sb <;> cases rb <;> rfl

@[simp] theorem aluEntryOf_t (cupd ct t : Bool) : (aluEntryOf cupd ct t)[0] = t := by
  cases cupd <;> cases ct <;> cases t <;> rfl
@[simp] theorem aluEntryOf_ct (cupd ct t : Bool) : (aluEntryOf cupd ct t)[1] = ct := by
  cases cupd <;> cases ct <;> cases t <;> rfl
@[simp] theorem aluEntryOf_cupd (cupd ct t : Bool) : (aluEntryOf cupd ct t)[2] = cupd := by
  cases cupd <;> cases ct <;> cases t <;> rfl

/-- The entry an evaluation reads under the reference table. -/
theorem State.aluEntry_ref {s : State} (h : s.cfg.aluTable = refAlu) (op : AOp) :
    s.aluEntry op.code = aluEntryOf (refUpdates op) (refCarry op s.rbit s.sbit s.cyc.cw) (refResult op s.rbit s.sbit s.cyc.cw) := by
  rw [State.aluEntry, h, tableAt_refAlu, refAluAt_aluIndex]

/-- All that one evaluation does under the reference table (R202, R222). -/
theorem aluPass_ref {s : State} (h : s.cfg.aluTable = refAlu) (op : AOp) :
    aluPass op.code s = { s with
      buses := { s.buses with tbus := refResult op s.rbit s.sbit s.cyc.cw }
      cyc := { s.cyc with ct := refCarry op s.rbit s.sbit s.cyc.cw, ctv := refUpdates op, evn := s.cyc.evn + 1 } } := by
  simp [aluPass, aluExec, State.aluEntry_ref h]

/-- One pass of the decimal self-check under REF_ALU, by the A-op's own rule (R235, R240 to R247). -/
theorem digitPasses_succ_ref (op : AOp) (a b : BitVec 4) (n : Nat) (x : Bool × BitVec 4) :
    digitPasses refAlu op.code a b (n + 1) x =
      digitPasses refAlu op.code a b n
        (if refUpdates op then refCarry op (b.getLsbD (3 - n)) (a.getLsbD (3 - n)) x.1 else x.1,
          BitVec.ofBool (refResult op (b.getLsbD (3 - n)) (a.getLsbD (3 - n)) x.1) ++ x.2.extractLsb' 1 3) := by
  rw [digitPasses, tableAt_refAlu, refAluAt_aluIndex]
  simp

/-- The opcode of a well-formed entry is its A-op's (R94, R97). -/
theorem Entry.alu_of_wf {e : Entry} (h : e.wf = true) : e.alu = e.aop.code := by
  simp only [Entry.wf, Bool.and_eq_true, beq_iff_eq] at h
  exact h.1.2

/-- The A-op of a row is one evaluation. -/
theorem runA_eq (op : AOp) (s : State) : runA op s = aluPass op.code s := by
  cases op <;> rfl

/-- All that the carry commit does (R205, R208). -/
theorem commitCarry_bc (s : State) : (commitCarry s).bc = if s.cyc.dm then s.bc else s.committedCarry := by
  unfold commitCarry; split <;> rfl

theorem State.committedCarry_working {s : State} (h : s.cfg.carryCommit = .working) : s.committedCarry = s.cyc.cw := by
  simp [State.committedCarry, h]

/-- Step 10 outside decimal mode is nothing (R209). -/
theorem decimalCommit_off {op : AOp} {s : State} (h : s.cyc.dm = false) : decimalCommit op s = s := by
  simp [decimalCommit, h]

theorem decimalCommit_dc {op : AOp} {s : State} (h : s.cyc.dm = true) : (decimalCommit op s).dc = (s.bcdEntry op).getLsbD 4 := by
  simp [decimalCommit, h]

end Sys2Proof.Machine
end

