-- ==== Sys2Proof/Laws/Outside.lean ====
section
/-! SUPPORT. The other agents and the device calls: what an interleaving point and a handshake can do (spec/44_io_arbiter.md R252 to
R254, R275 to R277). -/

namespace Sys2Proof.Machine

/-- Inside a cycle or a handshake another agent writes the arbiter alone (R276, R277). -/
theorem applyEvent_inside (s : State) (x : ExtEvent) : applyEvent false s x = { s with arb := (applyEvent false s x).arb } := by
  cases x with
  | periph d a => simp only [applyEvent]; split <;> rfl
  | host h => cases h <;> simp only [applyEvent, Bool.false_eq_true, if_false] <;> (try split) <;> rfl

/-- The latches of the arbiter that no other agent writes inside a cycle, and `BSY`, which none raises (R276, R277). -/
theorem applyEvent_latches (s : State) (x : ExtEvent) :
    (applyEvent false s x).arb.ssf = s.arb.ssf ∧ (applyEvent false s x).arb.inh = s.arb.inh ∧
    (applyEvent false s x).arb.ena = s.arb.ena ∧ (applyEvent false s x).arb.sel = s.arb.sel ∧
    ((applyEvent false s x).arb.bsy = true → s.arb.bsy = true) := by
  cases x with
  | periph d a =>
    cases a <;> simp only [applyEvent, applyPeriph] <;> split <;> (try split) <;> simp_all
  | host h => cases h <;> simp only [applyEvent] <;> (try split) <;> simp_all

theorem foldl_applyEvent_inside (g : List ExtEvent) (s : State) :
    g.foldl (applyEvent false) s = { s with arb := (g.foldl (applyEvent false) s).arb } := by
  induction g generalizing s with
  | nil => rfl
  | cons x g ih =>
    have h := ih (applyEvent false s x)
    have k := applyEvent_inside s x
    rw [List.foldl_cons]
    refine h.trans ?_
    generalize ((g.foldl (applyEvent false) (applyEvent false s x)).arb) = z
    generalize applyEvent false s x = u at k
    rw [k]

theorem foldl_applyEvent_latches (g : List ExtEvent) (s : State) :
    (g.foldl (applyEvent false) s).arb.ssf = s.arb.ssf ∧ (g.foldl (applyEvent false) s).arb.inh = s.arb.inh ∧
    (g.foldl (applyEvent false) s).arb.ena = s.arb.ena ∧ (g.foldl (applyEvent false) s).arb.sel = s.arb.sel ∧
    ((g.foldl (applyEvent false) s).arb.bsy = true → s.arb.bsy = true) := by
  induction g generalizing s with
  | nil => simp
  | cons x g ih =>
    obtain ⟨h1, h2, h3, h4, h5⟩ := ih (applyEvent false s x)
    obtain ⟨k1, k2, k3, k4, k5⟩ := applyEvent_latches s x
    exact ⟨h1.trans k1, h2.trans k2, h3.trans k3, h4.trans k4, fun h => k5 (h5 h)⟩

/-- All that an interleaving point inside a cycle can change: the arbiter, and the schedule. -/
theorem interleave_inside (s : State) :
    interleave false s = { s with
      arb := (interleave false s).arb, ext := { s.ext with env := s.ext.env.tail } } := by
  unfold interleave
  split
  · rename_i h
    have e : { s.ext with env := s.ext.env.tail } = s.ext := by
      rw [h]
      show Outside.mk [] _ _ = _
      rw [← h]
    rw [e]
  · rename_i g rest h
    rw [foldl_applyEvent_inside]
    simp [h]

theorem interleave_latches (s : State) :
    (interleave false s).arb.ssf = s.arb.ssf ∧ (interleave false s).arb.inh = s.arb.inh ∧
    (interleave false s).arb.ena = s.arb.ena ∧ (interleave false s).arb.sel = s.arb.sel ∧
    ((interleave false s).arb.bsy = true → s.arb.bsy = true) := by
  unfold interleave
  split
  · simp
  · exact foldl_applyEvent_latches _ _

/-- With nothing scheduled an interleaving point is nothing. -/
@[simp] theorem interleave_quiet {s : State} (h : s.ext.env = []) (b : Bool) : interleave b s = s := by
  simp [interleave, h]

section
variable (s : State)
@[simp] theorem interleave_inside_csa : (interleave false s).csa = s.csa := by rw [interleave_inside]
@[simp] theorem interleave_inside_regs : (interleave false s).regs = s.regs := by rw [interleave_inside]
@[simp] theorem interleave_inside_ab : (interleave false s).ab = s.ab := by rw [interleave_inside]
@[simp] theorem interleave_inside_bc : (interleave false s).bc = s.bc := by rw [interleave_inside]
@[simp] theorem interleave_inside_dc : (interleave false s).dc = s.dc := by rw [interleave_inside]
@[simp] theorem interleave_inside_buses : (interleave false s).buses = s.buses := by rw [interleave_inside]
@[simp] theorem interleave_inside_cyc : (interleave false s).cyc = s.cyc := by rw [interleave_inside]
@[simp] theorem interleave_inside_mem : (interleave false s).mem = s.mem := by rw [interleave_inside]
@[simp] theorem interleave_inside_rom : (interleave false s).rom = s.rom := by rw [interleave_inside]
@[simp] theorem interleave_inside_cs : (interleave false s).cs = s.cs := by rw [interleave_inside]
@[simp] theorem interleave_inside_cfg : (interleave false s).cfg = s.cfg := by rw [interleave_inside]
@[simp] theorem interleave_inside_hold : (interleave false s).hold = s.hold := by rw [interleave_inside]
end

/-- What no other agent changes between two cycles either: storage, the configuration, the carries, the hold, and the registers'
values (R330). -/
theorem applyEvent_boundary (s : State) (x : ExtEvent) :
    (applyEvent true s x).mem = s.mem ∧ SameConfiguration s (applyEvent true s x) ∧ (applyEvent true s x).ab = s.ab ∧
    (applyEvent true s x).bc = s.bc ∧ (applyEvent true s x).dc = s.dc ∧ (applyEvent true s x).hold = s.hold ∧
    (applyEvent true s x).cyc = s.cyc ∧ ∀ n : RegName, (applyEvent true s x).regs.value n = s.regs.value n := by
  have hp : ∀ n : RegName, (powerOnPreset s).regs.value n = s.regs.value n := by intro n; cases n <;> rfl
  cases x with
  | periph d a => simp only [applyEvent]; split <;> simp [SameConfiguration]
  | host h =>
    cases h with
    | preset => simp only [applyEvent]; exact ⟨rfl, ⟨rfl, rfl, rfl, rfl⟩, rfl, rfl, rfl, rfl, rfl, hp⟩
    | stop v => simp [applyEvent, SameConfiguration]
    | register d => simp only [applyEvent]; split <;> simp [SameConfiguration]
    | remove d => simp only [applyEvent]; split <;> simp [SameConfiguration]

theorem interleave_boundary (s : State) :
    (interleave true s).mem = s.mem ∧ SameConfiguration s (interleave true s) ∧ (interleave true s).ab = s.ab ∧
    (interleave true s).bc = s.bc ∧ (interleave true s).dc = s.dc ∧ (interleave true s).hold = s.hold ∧
    (interleave true s).cyc = s.cyc ∧ ∀ n : RegName, (interleave true s).regs.value n = s.regs.value n := by
  unfold interleave
  split
  · simp [SameConfiguration]
  · rename_i g rest _
    have h : ∀ (g : List ExtEvent) (u : State),
        (g.foldl (applyEvent true) u).mem = u.mem ∧ SameConfiguration u (g.foldl (applyEvent true) u) ∧
        (g.foldl (applyEvent true) u).ab = u.ab ∧ (g.foldl (applyEvent true) u).bc = u.bc ∧
        (g.foldl (applyEvent true) u).dc = u.dc ∧ (g.foldl (applyEvent true) u).hold = u.hold ∧
        (g.foldl (applyEvent true) u).cyc = u.cyc ∧
        ∀ n : RegName, (g.foldl (applyEvent true) u).regs.value n = u.regs.value n := by
      intro g
      induction g with
      | nil => simp [SameConfiguration]
      | cons x g ih =>
        intro u
        obtain ⟨h1, ⟨h2, h3, h4, hw⟩, h5, h6, h7, h8, h9, h10⟩ := ih (applyEvent true u x)
        obtain ⟨k1, ⟨k2, k3, k4, kw⟩, k5, k6, k7, k8, k9, k10⟩ := applyEvent_boundary u x
        exact ⟨h1.trans k1, ⟨h2.trans k2, h3.trans k3, h4.trans k4, hw.trans kw⟩, h5.trans k5, h6.trans k6, h7.trans k7, h8.trans k8,
          h9.trans k9, fun n => (h10 n).trans (k10 n)⟩
    exact h g _

/-! ## Device calls -/

@[simp] theorem State.nextAnswers_zero (s : State) : s.nextAnswers 0 = [] := rfl

/-- The next answers are the answer of the next call and those of the calls after it. -/
theorem State.nextAnswers_succ (s : State) (c : DevCall) (n : Nat) :
    s.nextAnswers (n + 1) = answerOf s :: (afterCall c s).nextAnswers n := by
  unfold State.nextAnswers
  rw [List.range_succ_eq_map, List.map_cons, List.map_map]
  congr 1
  · unfold answerOf; cases s.ext.answers <;> rfl
  · apply List.map_congr_left
    intro i _
    cases h : s.ext.answers <;> simp [afterCall, h, Nat.add_assoc, Nat.add_comm 1 i]

/-- The answers depend on the schedule and the log alone. -/
theorem State.nextAnswers_congr {s t : State} (h : t.ext = s.ext) (n : Nat) : t.nextAnswers n = s.nextAnswers n := by
  simp [State.nextAnswers, h]

theorem State.nextAnswers_buses (s : State) (b : Buses) (n : Nat) : { s with buses := b }.nextAnswers n = s.nextAnswers n := rfl

/-- All that offering a value to devices does (R254, R275). -/
theorem callOutputs_spec (v : Word) (ds : List DirEntry) (s : State) :
    callOutputs v ds s = ((s.nextAnswers ds.length).any (·.1), { s with ext := { s.ext with
      answers := s.ext.answers.drop ds.length, calls := (ds.map fun d => DevCall.output d v).reverse ++ s.ext.calls } }) := by
  induction ds generalizing s with
  | nil => rfl
  | cons d ds ih =>
    rw [callOutputs, ih, List.length_cons, State.nextAnswers_succ s (.output d v)]
    simp [afterCall]

/-- All that asking devices for input does (R254, R275), with `IOB` not null. -/
theorem callInputs_spec (ds : List DirEntry) (s : State) (x : Word) (hx : s.buses.iob = some x) :
    callInputs ds s = ((s.nextAnswers ds.length).any (·.1), { s with
      buses := { s.buses with iob := some ((s.nextAnswers ds.length).foldl (fun v a => v ||| a.2) x) }
      ext := { s.ext with
        answers := s.ext.answers.drop ds.length, calls := (ds.map DevCall.input).reverse ++ s.ext.calls } }) := by
  induction ds generalizing s x with
  | nil => simp [callInputs, ← hx]
  | cons d ds ih =>
    have hv : s.iobValue = x := by simp [State.iobValue, hx]
    have h := ih { afterCall (.input d) s with
      buses := { (afterCall (.input d) s).buses with iob := some (x ||| (answerOf s).2) } } (x ||| (answerOf s).2) rfl
    simp only [State.nextAnswers_buses] at h
    rw [List.length_cons, State.nextAnswers_succ s (.input d)]
    simp only [callInputs, hv, h]
    simp [afterCall]

/-! ## Handshake (R275) -/

/-- No device there: the output is dropped, the input reads zero, and no handshake is pending (R253). -/
theorem setCEO_absent {s : State} (h : lookupDevices s.arb.directory s.arb.sel = []) (dir : Dir) :
    setCEO dir s = setBusy false (clearIobFor dir s) := by
  simp [setCEO, h]

/-- All that an output handshake does. -/
theorem setCEO_out {s : State} (h : lookupDevices s.arb.directory s.arb.sel ≠ []) :
    setCEO .out s = { s with
      arb := { s.arb with bsy := (s.nextAnswers (lookupDevices s.arb.directory s.arb.sel).length).any (·.1) }
      ext := { s.ext with
        answers := s.ext.answers.drop (lookupDevices s.arb.directory s.arb.sel).length
        calls := ((lookupDevices s.arb.directory s.arb.sel).map fun d => DevCall.output d s.iobValue).reverse ++ s.ext.calls } } := by
  unfold setCEO
  split
  · exact absurd ‹_› h
  · rename_i d ds hl
    simp only [callDevices, clearIobFor, callOutputs_spec, hl]
    rfl

/-- All that an input handshake does. -/
theorem setCEO_in {s : State} (h : lookupDevices s.arb.directory s.arb.sel ≠ []) :
    setCEO .inp s = { s with
      arb := { s.arb with bsy := (s.nextAnswers (lookupDevices s.arb.directory s.arb.sel).length).any (·.1) }
      buses := { s.buses with
        iob := some ((s.nextAnswers (lookupDevices s.arb.directory s.arb.sel).length).foldl (fun v a => v ||| a.2) 0) }
      ext := { s.ext with
        answers := s.ext.answers.drop (lookupDevices s.arb.directory s.arb.sel).length
        calls := ((lookupDevices s.arb.directory s.arb.sel).map DevCall.input).reverse ++ s.ext.calls } } := by
  unfold setCEO
  split
  · exact absurd ‹_› h
  · rename_i d ds hl
    simp only [callDevices, clearIobFor, hl]
    rw [callInputs_spec _ _ 0 rfl]
    rfl

end Sys2Proof.Machine
end

