-- ==== Sys2Proof/Laws/Engine.lean ====
section
/-! SUPPORT. The arbiter's transfer and dispatch, and the execute cycle: what each part of them leaves alone, and what a whole cycle
does apart from its loop (spec/42_engine_cycle.md R190 to R212, spec/44_io_arbiter.md R259 to R275). -/

namespace Sys2Proof.Machine

/-! ### `wireTransfer` -/

@[simp] theorem wireTransfer_csa (dir : Dir) (aux : Bool) (s : State) : (wireTransfer dir aux s).csa = s.csa := by
  simp [wireTransfer]
@[simp] theorem wireTransfer_ab (dir : Dir) (aux : Bool) (s : State) : (wireTransfer dir aux s).ab = s.ab := by
  simp [wireTransfer]
@[simp] theorem wireTransfer_bc (dir : Dir) (aux : Bool) (s : State) : (wireTransfer dir aux s).bc = s.bc := by
  simp [wireTransfer]
@[simp] theorem wireTransfer_dc (dir : Dir) (aux : Bool) (s : State) : (wireTransfer dir aux s).dc = s.dc := by
  simp [wireTransfer]
@[simp] theorem wireTransfer_buses (dir : Dir) (aux : Bool) (s : State) : (wireTransfer dir aux s).buses = s.buses := by
  simp [wireTransfer]
@[simp] theorem wireTransfer_cyc (dir : Dir) (aux : Bool) (s : State) : (wireTransfer dir aux s).cyc = s.cyc := by
  simp [wireTransfer]
@[simp] theorem wireTransfer_arb (dir : Dir) (aux : Bool) (s : State) : (wireTransfer dir aux s).arb = s.arb := by
  simp [wireTransfer]
@[simp] theorem wireTransfer_mem (dir : Dir) (aux : Bool) (s : State) : (wireTransfer dir aux s).mem = s.mem := by
  simp [wireTransfer]
@[simp] theorem wireTransfer_rom (dir : Dir) (aux : Bool) (s : State) : (wireTransfer dir aux s).rom = s.rom := by
  simp [wireTransfer]
@[simp] theorem wireTransfer_cs (dir : Dir) (aux : Bool) (s : State) : (wireTransfer dir aux s).cs = s.cs := by
  simp [wireTransfer]
@[simp] theorem wireTransfer_cfg (dir : Dir) (aux : Bool) (s : State) : (wireTransfer dir aux s).cfg = s.cfg := by
  simp [wireTransfer]
@[simp] theorem wireTransfer_hold (dir : Dir) (aux : Bool) (s : State) : (wireTransfer dir aux s).hold = s.hold := by
  simp [wireTransfer]
@[simp] theorem wireTransfer_ext (dir : Dir) (aux : Bool) (s : State) : (wireTransfer dir aux s).ext = s.ext := by
  simp [wireTransfer]

/-! ### `transferPass` -/

@[simp] theorem transferPass_csa (g : RegName → Bool) (s : State) : (transferPass g s).csa = s.csa := by
  unfold transferPass; cases s.cyc.ir <;> simp
@[simp] theorem transferPass_ab (g : RegName → Bool) (s : State) : (transferPass g s).ab = s.ab := by
  unfold transferPass; cases s.cyc.ir <;> simp
@[simp] theorem transferPass_bc (g : RegName → Bool) (s : State) : (transferPass g s).bc = s.bc := by
  unfold transferPass; cases s.cyc.ir <;> simp
@[simp] theorem transferPass_dc (g : RegName → Bool) (s : State) : (transferPass g s).dc = s.dc := by
  unfold transferPass; cases s.cyc.ir <;> simp
@[simp] theorem transferPass_buses (g : RegName → Bool) (s : State) : (transferPass g s).buses = s.buses := by
  unfold transferPass; cases s.cyc.ir <;> simp
@[simp] theorem transferPass_arb (g : RegName → Bool) (s : State) : (transferPass g s).arb = s.arb := by
  unfold transferPass; cases s.cyc.ir <;> simp
@[simp] theorem transferPass_mem (g : RegName → Bool) (s : State) : (transferPass g s).mem = s.mem := by
  unfold transferPass; cases s.cyc.ir <;> simp
@[simp] theorem transferPass_rom (g : RegName → Bool) (s : State) : (transferPass g s).rom = s.rom := by
  unfold transferPass; cases s.cyc.ir <;> simp
@[simp] theorem transferPass_cs (g : RegName → Bool) (s : State) : (transferPass g s).cs = s.cs := by
  unfold transferPass; cases s.cyc.ir <;> simp
@[simp] theorem transferPass_cfg (g : RegName → Bool) (s : State) : (transferPass g s).cfg = s.cfg := by
  unfold transferPass; cases s.cyc.ir <;> simp
@[simp] theorem transferPass_hold (g : RegName → Bool) (s : State) : (transferPass g s).hold = s.hold := by
  unfold transferPass; cases s.cyc.ir <;> simp
@[simp] theorem transferPass_ext (g : RegName → Bool) (s : State) : (transferPass g s).ext = s.ext := by
  unfold transferPass; cases s.cyc.ir <;> simp

/-! ### `transferPasses` -/

@[simp] theorem transferPasses_csa (g : RegName → Bool) (n : Nat) (s : State) : (transferPasses g n s).csa = s.csa := by
  induction n generalizing s with
  | zero => rfl
  | succ n ih => rw [transferPasses, ih, transferPass_csa]
@[simp] theorem transferPasses_ab (g : RegName → Bool) (n : Nat) (s : State) : (transferPasses g n s).ab = s.ab := by
  induction n generalizing s with
  | zero => rfl
  | succ n ih => rw [transferPasses, ih, transferPass_ab]
@[simp] theorem transferPasses_bc (g : RegName → Bool) (n : Nat) (s : State) : (transferPasses g n s).bc = s.bc := by
  induction n generalizing s with
  | zero => rfl
  | succ n ih => rw [transferPasses, ih, transferPass_bc]
@[simp] theorem transferPasses_dc (g : RegName → Bool) (n : Nat) (s : State) : (transferPasses g n s).dc = s.dc := by
  induction n generalizing s with
  | zero => rfl
  | succ n ih => rw [transferPasses, ih, transferPass_dc]
@[simp] theorem transferPasses_buses (g : RegName → Bool) (n : Nat) (s : State) : (transferPasses g n s).buses = s.buses := by
  induction n generalizing s with
  | zero => rfl
  | succ n ih => rw [transferPasses, ih, transferPass_buses]
@[simp] theorem transferPasses_arb (g : RegName → Bool) (n : Nat) (s : State) : (transferPasses g n s).arb = s.arb := by
  induction n generalizing s with
  | zero => rfl
  | succ n ih => rw [transferPasses, ih, transferPass_arb]
@[simp] theorem transferPasses_mem (g : RegName → Bool) (n : Nat) (s : State) : (transferPasses g n s).mem = s.mem := by
  induction n generalizing s with
  | zero => rfl
  | succ n ih => rw [transferPasses, ih, transferPass_mem]
@[simp] theorem transferPasses_rom (g : RegName → Bool) (n : Nat) (s : State) : (transferPasses g n s).rom = s.rom := by
  induction n generalizing s with
  | zero => rfl
  | succ n ih => rw [transferPasses, ih, transferPass_rom]
@[simp] theorem transferPasses_cs (g : RegName → Bool) (n : Nat) (s : State) : (transferPasses g n s).cs = s.cs := by
  induction n generalizing s with
  | zero => rfl
  | succ n ih => rw [transferPasses, ih, transferPass_cs]
@[simp] theorem transferPasses_cfg (g : RegName → Bool) (n : Nat) (s : State) : (transferPasses g n s).cfg = s.cfg := by
  induction n generalizing s with
  | zero => rfl
  | succ n ih => rw [transferPasses, ih, transferPass_cfg]
@[simp] theorem transferPasses_hold (g : RegName → Bool) (n : Nat) (s : State) : (transferPasses g n s).hold = s.hold := by
  induction n generalizing s with
  | zero => rfl
  | succ n ih => rw [transferPasses, ih, transferPass_hold]
@[simp] theorem transferPasses_ext (g : RegName → Bool) (n : Nat) (s : State) : (transferPasses g n s).ext = s.ext := by
  induction n generalizing s with
  | zero => rfl
  | succ n ih => rw [transferPasses, ih, transferPass_ext]

/-! ### `transfer` -/

@[simp] theorem transfer_csa (n : Nat) (dir : Dir) (aux : Bool) (s : State) : (transfer n dir aux s).csa = s.csa := by
  simp [transfer]
@[simp] theorem transfer_ab (n : Nat) (dir : Dir) (aux : Bool) (s : State) : (transfer n dir aux s).ab = s.ab := by
  simp [transfer]
@[simp] theorem transfer_bc (n : Nat) (dir : Dir) (aux : Bool) (s : State) : (transfer n dir aux s).bc = s.bc := by
  simp [transfer]
@[simp] theorem transfer_dc (n : Nat) (dir : Dir) (aux : Bool) (s : State) : (transfer n dir aux s).dc = s.dc := by
  simp [transfer]
@[simp] theorem transfer_buses (n : Nat) (dir : Dir) (aux : Bool) (s : State) : (transfer n dir aux s).buses = s.buses := by
  simp [transfer]
@[simp] theorem transfer_arb (n : Nat) (dir : Dir) (aux : Bool) (s : State) : (transfer n dir aux s).arb = s.arb := by
  simp [transfer]
@[simp] theorem transfer_mem (n : Nat) (dir : Dir) (aux : Bool) (s : State) : (transfer n dir aux s).mem = s.mem := by
  simp [transfer]
@[simp] theorem transfer_rom (n : Nat) (dir : Dir) (aux : Bool) (s : State) : (transfer n dir aux s).rom = s.rom := by
  simp [transfer]
@[simp] theorem transfer_cs (n : Nat) (dir : Dir) (aux : Bool) (s : State) : (transfer n dir aux s).cs = s.cs := by
  simp [transfer]
@[simp] theorem transfer_cfg (n : Nat) (dir : Dir) (aux : Bool) (s : State) : (transfer n dir aux s).cfg = s.cfg := by
  simp [transfer]
@[simp] theorem transfer_hold (n : Nat) (dir : Dir) (aux : Bool) (s : State) : (transfer n dir aux s).hold = s.hold := by
  simp [transfer]
@[simp] theorem transfer_ext (n : Nat) (dir : Dir) (aux : Bool) (s : State) : (transfer n dir aux s).ext = s.ext := by
  simp [transfer]

/-! ### `latchAndShift` -/

@[simp] theorem latchAndShift_csa (n : Nat) (s : State) : (latchAndShift n s).csa = s.csa := by
  simp [latchAndShift]
@[simp] theorem latchAndShift_ab (n : Nat) (s : State) : (latchAndShift n s).ab = s.ab := by
  simp [latchAndShift]
@[simp] theorem latchAndShift_bc (n : Nat) (s : State) : (latchAndShift n s).bc = s.bc := by
  simp [latchAndShift]
@[simp] theorem latchAndShift_dc (n : Nat) (s : State) : (latchAndShift n s).dc = s.dc := by
  simp [latchAndShift]
@[simp] theorem latchAndShift_buses (n : Nat) (s : State) : (latchAndShift n s).buses = s.buses := by
  simp [latchAndShift]
@[simp] theorem latchAndShift_arb (n : Nat) (s : State) : (latchAndShift n s).arb = s.arb := by
  simp [latchAndShift]
@[simp] theorem latchAndShift_mem (n : Nat) (s : State) : (latchAndShift n s).mem = s.mem := by
  simp [latchAndShift]
@[simp] theorem latchAndShift_rom (n : Nat) (s : State) : (latchAndShift n s).rom = s.rom := by
  simp [latchAndShift]
@[simp] theorem latchAndShift_cs (n : Nat) (s : State) : (latchAndShift n s).cs = s.cs := by
  simp [latchAndShift]
@[simp] theorem latchAndShift_cfg (n : Nat) (s : State) : (latchAndShift n s).cfg = s.cfg := by
  simp [latchAndShift]
@[simp] theorem latchAndShift_hold (n : Nat) (s : State) : (latchAndShift n s).hold = s.hold := by
  simp [latchAndShift]
@[simp] theorem latchAndShift_ext (n : Nat) (s : State) : (latchAndShift n s).ext = s.ext := by
  simp [latchAndShift]

/-! ### `transferOut` -/

@[simp] theorem transferOut_csa (n : Nat) (s : State) : (transferOut n s).csa = s.csa := by
  simp [transferOut]
@[simp] theorem transferOut_ab (n : Nat) (s : State) : (transferOut n s).ab = s.ab := by
  simp [transferOut]
@[simp] theorem transferOut_bc (n : Nat) (s : State) : (transferOut n s).bc = s.bc := by
  simp [transferOut]
@[simp] theorem transferOut_dc (n : Nat) (s : State) : (transferOut n s).dc = s.dc := by
  simp [transferOut]
@[simp] theorem transferOut_buses (n : Nat) (s : State) : (transferOut n s).buses = s.buses := by
  simp [transferOut]
@[simp] theorem transferOut_arb (n : Nat) (s : State) : (transferOut n s).arb = s.arb := by
  simp [transferOut]
@[simp] theorem transferOut_mem (n : Nat) (s : State) : (transferOut n s).mem = s.mem := by
  simp [transferOut]
@[simp] theorem transferOut_rom (n : Nat) (s : State) : (transferOut n s).rom = s.rom := by
  simp [transferOut]
@[simp] theorem transferOut_cs (n : Nat) (s : State) : (transferOut n s).cs = s.cs := by
  simp [transferOut]
@[simp] theorem transferOut_cfg (n : Nat) (s : State) : (transferOut n s).cfg = s.cfg := by
  simp [transferOut]
@[simp] theorem transferOut_hold (n : Nat) (s : State) : (transferOut n s).hold = s.hold := by
  simp [transferOut]
@[simp] theorem transferOut_ext (n : Nat) (s : State) : (transferOut n s).ext = s.ext := by
  simp [transferOut]

/-! ### `ioFinish` -/

@[simp] theorem ioFinish_csa (h : Hold) (s : State) : (ioFinish h s).csa = s.csa := by
  unfold ioFinish; cases h.post <;> simp
@[simp] theorem ioFinish_ab (h : Hold) (s : State) : (ioFinish h s).ab = s.ab := by
  unfold ioFinish; cases h.post <;> simp
@[simp] theorem ioFinish_bc (h : Hold) (s : State) : (ioFinish h s).bc = s.bc := by
  unfold ioFinish; cases h.post <;> simp
@[simp] theorem ioFinish_dc (h : Hold) (s : State) : (ioFinish h s).dc = s.dc := by
  unfold ioFinish; cases h.post <;> simp
@[simp] theorem ioFinish_buses (h : Hold) (s : State) : (ioFinish h s).buses = s.buses := by
  unfold ioFinish; cases h.post <;> simp
@[simp] theorem ioFinish_mem (h : Hold) (s : State) : (ioFinish h s).mem = s.mem := by
  unfold ioFinish; cases h.post <;> simp
@[simp] theorem ioFinish_rom (h : Hold) (s : State) : (ioFinish h s).rom = s.rom := by
  unfold ioFinish; cases h.post <;> simp
@[simp] theorem ioFinish_cs (h : Hold) (s : State) : (ioFinish h s).cs = s.cs := by
  unfold ioFinish; cases h.post <;> simp
@[simp] theorem ioFinish_cfg (h : Hold) (s : State) : (ioFinish h s).cfg = s.cfg := by
  unfold ioFinish; cases h.post <;> simp
@[simp] theorem ioFinish_hold (h : Hold) (s : State) : (ioFinish h s).hold = s.hold := by
  unfold ioFinish; cases h.post <;> simp
@[simp] theorem ioFinish_ext (h : Hold) (s : State) : (ioFinish h s).ext = s.ext := by
  unfold ioFinish; cases h.post <;> simp

/-! ### `setCEO` -/

@[simp] theorem setCEO_csa (dir : Dir) (s : State) : (setCEO dir s).csa = s.csa := by
  by_cases h : lookupDevices s.arb.directory s.arb.sel = []
  · rw [setCEO_absent h]; simp
  · cases dir
    · rw [setCEO_in h]
    · rw [setCEO_out h]
@[simp] theorem setCEO_regs (dir : Dir) (s : State) : (setCEO dir s).regs = s.regs := by
  by_cases h : lookupDevices s.arb.directory s.arb.sel = []
  · rw [setCEO_absent h]; simp
  · cases dir
    · rw [setCEO_in h]
    · rw [setCEO_out h]
@[simp] theorem setCEO_ab (dir : Dir) (s : State) : (setCEO dir s).ab = s.ab := by
  by_cases h : lookupDevices s.arb.directory s.arb.sel = []
  · rw [setCEO_absent h]; simp
  · cases dir
    · rw [setCEO_in h]
    · rw [setCEO_out h]
@[simp] theorem setCEO_bc (dir : Dir) (s : State) : (setCEO dir s).bc = s.bc := by
  by_cases h : lookupDevices s.arb.directory s.arb.sel = []
  · rw [setCEO_absent h]; simp
  · cases dir
    · rw [setCEO_in h]
    · rw [setCEO_out h]
@[simp] theorem setCEO_dc (dir : Dir) (s : State) : (setCEO dir s).dc = s.dc := by
  by_cases h : lookupDevices s.arb.directory s.arb.sel = []
  · rw [setCEO_absent h]; simp
  · cases dir
    · rw [setCEO_in h]
    · rw [setCEO_out h]
@[simp] theorem setCEO_cyc (dir : Dir) (s : State) : (setCEO dir s).cyc = s.cyc := by
  by_cases h : lookupDevices s.arb.directory s.arb.sel = []
  · rw [setCEO_absent h]; simp
  · cases dir
    · rw [setCEO_in h]
    · rw [setCEO_out h]
@[simp] theorem setCEO_mem (dir : Dir) (s : State) : (setCEO dir s).mem = s.mem := by
  by_cases h : lookupDevices s.arb.directory s.arb.sel = []
  · rw [setCEO_absent h]; simp
  · cases dir
    · rw [setCEO_in h]
    · rw [setCEO_out h]
@[simp] theorem setCEO_rom (dir : Dir) (s : State) : (setCEO dir s).rom = s.rom := by
  by_cases h : lookupDevices s.arb.directory s.arb.sel = []
  · rw [setCEO_absent h]; simp
  · cases dir
    · rw [setCEO_in h]
    · rw [setCEO_out h]
@[simp] theorem setCEO_cs (dir : Dir) (s : State) : (setCEO dir s).cs = s.cs := by
  by_cases h : lookupDevices s.arb.directory s.arb.sel = []
  · rw [setCEO_absent h]; simp
  · cases dir
    · rw [setCEO_in h]
    · rw [setCEO_out h]
@[simp] theorem setCEO_cfg (dir : Dir) (s : State) : (setCEO dir s).cfg = s.cfg := by
  by_cases h : lookupDevices s.arb.directory s.arb.sel = []
  · rw [setCEO_absent h]; simp
  · cases dir
    · rw [setCEO_in h]
    · rw [setCEO_out h]
@[simp] theorem setCEO_hold (dir : Dir) (s : State) : (setCEO dir s).hold = s.hold := by
  by_cases h : lookupDevices s.arb.directory s.arb.sel = []
  · rw [setCEO_absent h]; simp
  · cases dir
    · rw [setCEO_in h]
    · rw [setCEO_out h]

/-! ### `handshake` -/

@[simp] theorem handshake_csa (dir : Dir) (h : Hold) (s : State) : (handshake dir h s).csa = s.csa := by
  unfold handshake; dsimp only; split <;> simp
@[simp] theorem handshake_ab (dir : Dir) (h : Hold) (s : State) : (handshake dir h s).ab = s.ab := by
  unfold handshake; dsimp only; split <;> simp
@[simp] theorem handshake_bc (dir : Dir) (h : Hold) (s : State) : (handshake dir h s).bc = s.bc := by
  unfold handshake; dsimp only; split <;> simp
@[simp] theorem handshake_dc (dir : Dir) (h : Hold) (s : State) : (handshake dir h s).dc = s.dc := by
  unfold handshake; dsimp only; split <;> simp
@[simp] theorem handshake_mem (dir : Dir) (h : Hold) (s : State) : (handshake dir h s).mem = s.mem := by
  unfold handshake; dsimp only; split <;> simp
@[simp] theorem handshake_rom (dir : Dir) (h : Hold) (s : State) : (handshake dir h s).rom = s.rom := by
  unfold handshake; dsimp only; split <;> simp
@[simp] theorem handshake_cs (dir : Dir) (h : Hold) (s : State) : (handshake dir h s).cs = s.cs := by
  unfold handshake; dsimp only; split <;> simp
@[simp] theorem handshake_cfg (dir : Dir) (h : Hold) (s : State) : (handshake dir h s).cfg = s.cfg := by
  unfold handshake; dsimp only; split <;> simp

/-! ### `offer` -/

@[simp] theorem offer_csa (v : Word) (hc : Bool) (s : State) : (offer v hc s).csa = s.csa := by
  unfold offer; dsimp only; split <;> simp
@[simp] theorem offer_ab (v : Word) (hc : Bool) (s : State) : (offer v hc s).ab = s.ab := by
  unfold offer; dsimp only; split <;> simp
@[simp] theorem offer_bc (v : Word) (hc : Bool) (s : State) : (offer v hc s).bc = s.bc := by
  unfold offer; dsimp only; split <;> simp
@[simp] theorem offer_dc (v : Word) (hc : Bool) (s : State) : (offer v hc s).dc = s.dc := by
  unfold offer; dsimp only; split <;> simp
@[simp] theorem offer_mem (v : Word) (hc : Bool) (s : State) : (offer v hc s).mem = s.mem := by
  unfold offer; dsimp only; split <;> simp
@[simp] theorem offer_rom (v : Word) (hc : Bool) (s : State) : (offer v hc s).rom = s.rom := by
  unfold offer; dsimp only; split <;> simp
@[simp] theorem offer_cs (v : Word) (hc : Bool) (s : State) : (offer v hc s).cs = s.cs := by
  unfold offer; dsimp only; split <;> simp
@[simp] theorem offer_cfg (v : Word) (hc : Bool) (s : State) : (offer v hc s).cfg = s.cfg := by
  unfold offer; dsimp only; split <;> simp

/-! ### `ioBegin` -/

@[simp] theorem ioBegin_csa (sc : BitVec 5) (s : State) : (ioBegin sc s).csa = s.csa := by
  simp [ioBegin]
@[simp] theorem ioBegin_regs (sc : BitVec 5) (s : State) : (ioBegin sc s).regs = s.regs := by
  simp [ioBegin]
@[simp] theorem ioBegin_ab (sc : BitVec 5) (s : State) : (ioBegin sc s).ab = s.ab := by
  simp [ioBegin]
@[simp] theorem ioBegin_bc (sc : BitVec 5) (s : State) : (ioBegin sc s).bc = s.bc := by
  simp [ioBegin]
@[simp] theorem ioBegin_dc (sc : BitVec 5) (s : State) : (ioBegin sc s).dc = s.dc := by
  simp [ioBegin]
@[simp] theorem ioBegin_buses (sc : BitVec 5) (s : State) : (ioBegin sc s).buses = s.buses := by
  simp [ioBegin]
@[simp] theorem ioBegin_cyc (sc : BitVec 5) (s : State) : (ioBegin sc s).cyc = s.cyc := by
  simp [ioBegin]
@[simp] theorem ioBegin_mem (sc : BitVec 5) (s : State) : (ioBegin sc s).mem = s.mem := by
  simp [ioBegin]
@[simp] theorem ioBegin_rom (sc : BitVec 5) (s : State) : (ioBegin sc s).rom = s.rom := by
  simp [ioBegin]
@[simp] theorem ioBegin_cs (sc : BitVec 5) (s : State) : (ioBegin sc s).cs = s.cs := by
  simp [ioBegin]
@[simp] theorem ioBegin_cfg (sc : BitVec 5) (s : State) : (ioBegin sc s).cfg = s.cfg := by
  simp [ioBegin]
@[simp] theorem ioBegin_hold (sc : BitVec 5) (s : State) : (ioBegin sc s).hold = s.hold := by
  simp [ioBegin]

/-! ### `dispatchIo` -/

@[simp] theorem dispatchIo_csa (i : IoWord) (s : State) : (dispatchIo i s).csa = s.csa := by
  unfold dispatchIo; cases i.op <;> simp [runIoStf, runIoSfc, runIoStc, runIoClc, runIoSfs, runIoLi8, runIoLi16, runIoOt8, runIoOt16,
    runIoEow, runIoNopLow, runIoNopHigh, endService]
@[simp] theorem dispatchIo_ab (i : IoWord) (s : State) : (dispatchIo i s).ab = s.ab := by
  unfold dispatchIo; cases i.op <;> simp [runIoStf, runIoSfc, runIoStc, runIoClc, runIoSfs, runIoLi8, runIoLi16, runIoOt8, runIoOt16,
    runIoEow, runIoNopLow, runIoNopHigh, endService]
@[simp] theorem dispatchIo_dc (i : IoWord) (s : State) : (dispatchIo i s).dc = s.dc := by
  unfold dispatchIo; cases i.op <;> simp [runIoStf, runIoSfc, runIoStc, runIoClc, runIoSfs, runIoLi8, runIoLi16, runIoOt8, runIoOt16,
    runIoEow, runIoNopLow, runIoNopHigh, endService]
@[simp] theorem dispatchIo_mem (i : IoWord) (s : State) : (dispatchIo i s).mem = s.mem := by
  unfold dispatchIo; cases i.op <;> simp [runIoStf, runIoSfc, runIoStc, runIoClc, runIoSfs, runIoLi8, runIoLi16, runIoOt8, runIoOt16,
    runIoEow, runIoNopLow, runIoNopHigh, endService]
@[simp] theorem dispatchIo_rom (i : IoWord) (s : State) : (dispatchIo i s).rom = s.rom := by
  unfold dispatchIo; cases i.op <;> simp [runIoStf, runIoSfc, runIoStc, runIoClc, runIoSfs, runIoLi8, runIoLi16, runIoOt8, runIoOt16,
    runIoEow, runIoNopLow, runIoNopHigh, endService]
@[simp] theorem dispatchIo_cs (i : IoWord) (s : State) : (dispatchIo i s).cs = s.cs := by
  unfold dispatchIo; cases i.op <;> simp [runIoStf, runIoSfc, runIoStc, runIoClc, runIoSfs, runIoLi8, runIoLi16, runIoOt8, runIoOt16,
    runIoEow, runIoNopLow, runIoNopHigh, endService]
@[simp] theorem dispatchIo_cfg (i : IoWord) (s : State) : (dispatchIo i s).cfg = s.cfg := by
  unfold dispatchIo; cases i.op <;> simp [runIoStf, runIoSfc, runIoStc, runIoClc, runIoSfs, runIoLi8, runIoLi16, runIoOt8, runIoOt16,
    runIoEow, runIoNopLow, runIoNopHigh, endService]

/-! ### `arbiterExec` -/

@[simp] theorem arbiterExec_csa (s : State) : (arbiterExec s).csa = s.csa := by
  unfold arbiterExec runIoAck; cases s.ioWord <;> simp; split <;> simp
@[simp] theorem arbiterExec_ab (s : State) : (arbiterExec s).ab = s.ab := by
  unfold arbiterExec runIoAck; cases s.ioWord <;> simp; split <;> simp
@[simp] theorem arbiterExec_dc (s : State) : (arbiterExec s).dc = s.dc := by
  unfold arbiterExec runIoAck; cases s.ioWord <;> simp; split <;> simp
@[simp] theorem arbiterExec_mem (s : State) : (arbiterExec s).mem = s.mem := by
  unfold arbiterExec runIoAck; cases s.ioWord <;> simp; split <;> simp
@[simp] theorem arbiterExec_rom (s : State) : (arbiterExec s).rom = s.rom := by
  unfold arbiterExec runIoAck; cases s.ioWord <;> simp; split <;> simp
@[simp] theorem arbiterExec_cs (s : State) : (arbiterExec s).cs = s.cs := by
  unfold arbiterExec runIoAck; cases s.ioWord <;> simp; split <;> simp
@[simp] theorem arbiterExec_cfg (s : State) : (arbiterExec s).cfg = s.cfg := by
  unfold arbiterExec runIoAck; cases s.ioWord <;> simp; split <;> simp

/-! ### `runR` -/

@[simp] theorem runR_csa (op : ROp) (s : State) : (runR op s).csa = s.csa := by
  cases op <;> simp [runR, runRZero, runRUnit, runRUnitx, runRP, runRIos, runRTre, runRE, runRQ, runRRdm, runRWtm, runRAcc]
@[simp] theorem runR_ab (op : ROp) (s : State) : (runR op s).ab = s.ab := by
  cases op <;> simp [runR, runRZero, runRUnit, runRUnitx, runRP, runRIos, runRTre, runRE, runRQ, runRRdm, runRWtm, runRAcc]
@[simp] theorem runR_dc (op : ROp) (s : State) : (runR op s).dc = s.dc := by
  cases op <;> simp [runR, runRZero, runRUnit, runRUnitx, runRP, runRIos, runRTre, runRE, runRQ, runRRdm, runRWtm, runRAcc]
@[simp] theorem runR_rom (op : ROp) (s : State) : (runR op s).rom = s.rom := by
  cases op <;> simp [runR, runRZero, runRUnit, runRUnitx, runRP, runRIos, runRTre, runRE, runRQ, runRRdm, runRWtm, runRAcc]
@[simp] theorem runR_cs (op : ROp) (s : State) : (runR op s).cs = s.cs := by
  cases op <;> simp [runR, runRZero, runRUnit, runRUnitx, runRP, runRIos, runRTre, runRE, runRQ, runRRdm, runRWtm, runRAcc]
@[simp] theorem runR_cfg (op : ROp) (s : State) : (runR op s).cfg = s.cfg := by
  cases op <;> simp [runR, runRZero, runRUnit, runRUnitx, runRP, runRIos, runRTre, runRE, runRQ, runRRdm, runRWtm, runRAcc]

/-! ### `sampleQual` -/

@[simp] theorem sampleQual_csa (s : State) : (sampleQual s).csa = s.csa := by
  unfold sampleQual; split <;> simp
@[simp] theorem sampleQual_regs (s : State) : (sampleQual s).regs = s.regs := by
  unfold sampleQual; split <;> simp
@[simp] theorem sampleQual_ab (s : State) : (sampleQual s).ab = s.ab := by
  unfold sampleQual; split <;> simp
@[simp] theorem sampleQual_bc (s : State) : (sampleQual s).bc = s.bc := by
  unfold sampleQual; split <;> simp
@[simp] theorem sampleQual_dc (s : State) : (sampleQual s).dc = s.dc := by
  unfold sampleQual; split <;> simp
@[simp] theorem sampleQual_buses (s : State) : (sampleQual s).buses = s.buses := by
  unfold sampleQual; split <;> simp
@[simp] theorem sampleQual_cyc (s : State) : (sampleQual s).cyc = s.cyc := by
  unfold sampleQual; split <;> simp
@[simp] theorem sampleQual_mem (s : State) : (sampleQual s).mem = s.mem := by
  unfold sampleQual; split <;> simp
@[simp] theorem sampleQual_rom (s : State) : (sampleQual s).rom = s.rom := by
  unfold sampleQual; split <;> simp
@[simp] theorem sampleQual_cs (s : State) : (sampleQual s).cs = s.cs := by
  unfold sampleQual; split <;> simp
@[simp] theorem sampleQual_cfg (s : State) : (sampleQual s).cfg = s.cfg := by
  unfold sampleQual; split <;> simp
@[simp] theorem sampleQual_hold (s : State) : (sampleQual s).hold = s.hold := by
  unfold sampleQual; split <;> simp

/-! ### `runBrq` -/

@[simp] theorem runBrq_csa (s : State) : (runBrq s).csa = s.csa := by
  simp [runBrq]
@[simp] theorem runBrq_regs (s : State) : (runBrq s).regs = s.regs := by
  simp [runBrq]
@[simp] theorem runBrq_ab (s : State) : (runBrq s).ab = s.ab := by
  simp [runBrq]
@[simp] theorem runBrq_bc (s : State) : (runBrq s).bc = s.bc := by
  simp [runBrq]
@[simp] theorem runBrq_dc (s : State) : (runBrq s).dc = s.dc := by
  simp [runBrq]
@[simp] theorem runBrq_buses (s : State) : (runBrq s).buses = s.buses := by
  simp [runBrq]
@[simp] theorem runBrq_mem (s : State) : (runBrq s).mem = s.mem := by
  simp [runBrq]
@[simp] theorem runBrq_rom (s : State) : (runBrq s).rom = s.rom := by
  simp [runBrq]
@[simp] theorem runBrq_cs (s : State) : (runBrq s).cs = s.cs := by
  simp [runBrq]
@[simp] theorem runBrq_cfg (s : State) : (runBrq s).cfg = s.cfg := by
  simp [runBrq]
@[simp] theorem runBrq_hold (s : State) : (runBrq s).hold = s.hold := by
  simp [runBrq]

/-! ### `runIqn` -/

@[simp] theorem runIqn_csa (s : State) : (runIqn s).csa = s.csa := by
  unfold runIqn; dsimp only; split <;> simp
@[simp] theorem runIqn_regs (s : State) : (runIqn s).regs = s.regs := by
  unfold runIqn; dsimp only; split <;> simp
@[simp] theorem runIqn_ab (s : State) : (runIqn s).ab = s.ab := by
  unfold runIqn; dsimp only; split <;> simp
@[simp] theorem runIqn_bc (s : State) : (runIqn s).bc = s.bc := by
  unfold runIqn; dsimp only; split <;> simp
@[simp] theorem runIqn_dc (s : State) : (runIqn s).dc = s.dc := by
  unfold runIqn; dsimp only; split <;> simp
@[simp] theorem runIqn_buses (s : State) : (runIqn s).buses = s.buses := by
  unfold runIqn; dsimp only; split <;> simp
@[simp] theorem runIqn_mem (s : State) : (runIqn s).mem = s.mem := by
  unfold runIqn; dsimp only; split <;> simp
@[simp] theorem runIqn_rom (s : State) : (runIqn s).rom = s.rom := by
  unfold runIqn; dsimp only; split <;> simp
@[simp] theorem runIqn_cs (s : State) : (runIqn s).cs = s.cs := by
  unfold runIqn; dsimp only; split <;> simp
@[simp] theorem runIqn_cfg (s : State) : (runIqn s).cfg = s.cfg := by
  unfold runIqn; dsimp only; split <;> simp
@[simp] theorem runIqn_hold (s : State) : (runIqn s).hold = s.hold := by
  unfold runIqn; dsimp only; split <;> simp

/-! ### `tripCount` -/

@[simp] theorem tripCount_csa (e : Entry) (s : State) : (tripCount e s).csa = s.csa := by
  unfold tripCount; dsimp only; split <;> simp
@[simp] theorem tripCount_regs (e : Entry) (s : State) : (tripCount e s).regs = s.regs := by
  unfold tripCount; dsimp only; split <;> simp
@[simp] theorem tripCount_ab (e : Entry) (s : State) : (tripCount e s).ab = s.ab := by
  unfold tripCount; dsimp only; split <;> simp
@[simp] theorem tripCount_bc (e : Entry) (s : State) : (tripCount e s).bc = s.bc := by
  unfold tripCount; dsimp only; split <;> simp
@[simp] theorem tripCount_dc (e : Entry) (s : State) : (tripCount e s).dc = s.dc := by
  unfold tripCount; dsimp only; split <;> simp
@[simp] theorem tripCount_buses (e : Entry) (s : State) : (tripCount e s).buses = s.buses := by
  unfold tripCount; dsimp only; split <;> simp
@[simp] theorem tripCount_mem (e : Entry) (s : State) : (tripCount e s).mem = s.mem := by
  unfold tripCount; dsimp only; split <;> simp
@[simp] theorem tripCount_rom (e : Entry) (s : State) : (tripCount e s).rom = s.rom := by
  unfold tripCount; dsimp only; split <;> simp
@[simp] theorem tripCount_cs (e : Entry) (s : State) : (tripCount e s).cs = s.cs := by
  unfold tripCount; dsimp only; split <;> simp
@[simp] theorem tripCount_cfg (e : Entry) (s : State) : (tripCount e s).cfg = s.cfg := by
  unfold tripCount; dsimp only; split <;> simp
@[simp] theorem tripCount_hold (e : Entry) (s : State) : (tripCount e s).hold = s.hold := by
  unfold tripCount; dsimp only; split <;> simp

/-! ### `terminate` -/

@[simp] theorem terminate_csa (e : Entry) (s : State) : (terminate e s).csa = s.csa := by
  unfold terminate; dsimp only; split <;> simp
@[simp] theorem terminate_ab (e : Entry) (s : State) : (terminate e s).ab = s.ab := by
  unfold terminate; dsimp only; split <;> simp
@[simp] theorem terminate_dc (e : Entry) (s : State) : (terminate e s).dc = s.dc := by
  unfold terminate; dsimp only; split <;> simp
@[simp] theorem terminate_buses (e : Entry) (s : State) : (terminate e s).buses = s.buses := by
  unfold terminate; dsimp only; split <;> simp
@[simp] theorem terminate_mem (e : Entry) (s : State) : (terminate e s).mem = s.mem := by
  unfold terminate; dsimp only; split <;> simp
@[simp] theorem terminate_rom (e : Entry) (s : State) : (terminate e s).rom = s.rom := by
  unfold terminate; dsimp only; split <;> simp
@[simp] theorem terminate_cs (e : Entry) (s : State) : (terminate e s).cs = s.cs := by
  unfold terminate; dsimp only; split <;> simp
@[simp] theorem terminate_cfg (e : Entry) (s : State) : (terminate e s).cfg = s.cfg := by
  unfold terminate; dsimp only; split <;> simp
@[simp] theorem terminate_hold (e : Entry) (s : State) : (terminate e s).hold = s.hold := by
  unfold terminate; dsimp only; split <;> simp

/-! ### `shiftLoop` -/

@[simp] theorem shiftLoop_csa (e : Entry) (n : Nat) (s : State) : (shiftLoop e n s).csa = s.csa := by
  induction n generalizing s with
  | zero => simp [shiftLoop]
  | succ n ih => unfold shiftLoop; split <;> simp [ih]
@[simp] theorem shiftLoop_ab (e : Entry) (n : Nat) (s : State) : (shiftLoop e n s).ab = s.ab := by
  induction n generalizing s with
  | zero => simp [shiftLoop]
  | succ n ih => unfold shiftLoop; split <;> simp [ih]
@[simp] theorem shiftLoop_dc (e : Entry) (n : Nat) (s : State) : (shiftLoop e n s).dc = s.dc := by
  induction n generalizing s with
  | zero => simp [shiftLoop]
  | succ n ih => unfold shiftLoop; split <;> simp [ih]
@[simp] theorem shiftLoop_mem (e : Entry) (n : Nat) (s : State) : (shiftLoop e n s).mem = s.mem := by
  induction n generalizing s with
  | zero => simp [shiftLoop]
  | succ n ih => unfold shiftLoop; split <;> simp [ih]
@[simp] theorem shiftLoop_rom (e : Entry) (n : Nat) (s : State) : (shiftLoop e n s).rom = s.rom := by
  induction n generalizing s with
  | zero => simp [shiftLoop]
  | succ n ih => unfold shiftLoop; split <;> simp [ih]
@[simp] theorem shiftLoop_cs (e : Entry) (n : Nat) (s : State) : (shiftLoop e n s).cs = s.cs := by
  induction n generalizing s with
  | zero => simp [shiftLoop]
  | succ n ih => unfold shiftLoop; split <;> simp [ih]
@[simp] theorem shiftLoop_cfg (e : Entry) (n : Nat) (s : State) : (shiftLoop e n s).cfg = s.cfg := by
  induction n generalizing s with
  | zero => simp [shiftLoop]
  | succ n ih => unfold shiftLoop; split <;> simp [ih]
@[simp] theorem shiftLoop_hold (e : Entry) (n : Nat) (s : State) : (shiftLoop e n s).hold = s.hold := by
  induction n generalizing s with
  | zero => simp [shiftLoop]
  | succ n ih => unfold shiftLoop; split <;> simp [ih]

/-! ### `runLoop` -/

@[simp] theorem runLoop_csa (e : Entry) (s : State) : (runLoop e s).csa = s.csa := by
  simp [runLoop]
@[simp] theorem runLoop_ab (e : Entry) (s : State) : (runLoop e s).ab = s.ab := by
  simp [runLoop]
@[simp] theorem runLoop_dc (e : Entry) (s : State) : (runLoop e s).dc = s.dc := by
  simp [runLoop]
@[simp] theorem runLoop_mem (e : Entry) (s : State) : (runLoop e s).mem = s.mem := by
  simp [runLoop]
@[simp] theorem runLoop_rom (e : Entry) (s : State) : (runLoop e s).rom = s.rom := by
  simp [runLoop]
@[simp] theorem runLoop_cs (e : Entry) (s : State) : (runLoop e s).cs = s.cs := by
  simp [runLoop]
@[simp] theorem runLoop_cfg (e : Entry) (s : State) : (runLoop e s).cfg = s.cfg := by
  simp [runLoop]
@[simp] theorem runLoop_hold (e : Entry) (s : State) : (runLoop e s).hold = s.hold := by
  simp [runLoop]

/-! ### `cycleBack` -/

@[simp] theorem cycleBack_mem (e : Entry) (s : State) : (cycleBack e s).mem = s.mem := by
  simp [cycleBack]
@[simp] theorem cycleBack_rom (e : Entry) (s : State) : (cycleBack e s).rom = s.rom := by
  simp [cycleBack]
@[simp] theorem cycleBack_cs (e : Entry) (s : State) : (cycleBack e s).cs = s.cs := by
  simp [cycleBack]
@[simp] theorem cycleBack_cfg (e : Entry) (s : State) : (cycleBack e s).cfg = s.cfg := by
  simp [cycleBack]
@[simp] theorem cycleBack_hold (e : Entry) (s : State) : (cycleBack e s).hold = s.hold := by
  simp [cycleBack]

/-! ### `cycleFront` -/

@[simp] theorem cycleFront_csa (e : Entry) (s : State) : (cycleFront e s).csa = s.csa := by
  simp [cycleFront]
@[simp] theorem cycleFront_ab (e : Entry) (s : State) : (cycleFront e s).ab = s.ab := by
  simp [cycleFront]
@[simp] theorem cycleFront_dc (e : Entry) (s : State) : (cycleFront e s).dc = s.dc := by
  simp [cycleFront]
@[simp] theorem cycleFront_rom (e : Entry) (s : State) : (cycleFront e s).rom = s.rom := by
  simp [cycleFront]
@[simp] theorem cycleFront_cs (e : Entry) (s : State) : (cycleFront e s).cs = s.cs := by
  simp [cycleFront]
@[simp] theorem cycleFront_cfg (e : Entry) (s : State) : (cycleFront e s).cfg = s.cfg := by
  simp [cycleFront]

/-! ### What the cycle does apart from its loop -/

/-- A load word never holds the engine: only the I/O start can (R275). -/
theorem runR_hold {op : ROp} (h : op ≠ .ios) (s : State) : (runR op s).hold = s.hold := by
  cases op <;> simp_all [runR, runRZero, runRUnit, runRUnitx, runRP, runRTre, runRE, runRQ, runRRdm, runRWtm, runRAcc]

/-- Only the I/O start reaches the arbiter and the outside world (R349). -/
theorem runR_arb {op : ROp} (h : op ≠ .ios) (s : State) : (runR op s).arb = s.arb ∧ (runR op s).ext = s.ext := by
  cases op <;> simp_all [runR, runRZero, runRUnit, runRUnitx, runRP, runRTre, runRE, runRQ, runRRdm, runRWtm, runRAcc]

/-- Only `R_WTM` writes storage (R148). -/
theorem runR_mem (op : ROp) (s : State) :
    (runR op s).mem = if op = .wtm then (s.memWrite s.regs.m.word s.regs.t.word).mem else s.mem := by
  cases op <;> simp [runR, runRZero, runRUnit, runRUnitx, runRP, runRIos, runRTre, runRE, runRQ, runRRdm, runRWtm, runRAcc]

/-- Steps 1 to 3 do not hold the engine without the I/O start. -/
theorem cycleFront_hold {e : Entry} (h : e.rop ≠ .ios) (s : State) : (cycleFront e s).hold = s.hold := by
  simp [cycleFront, runR_hold h]

/-- The loop with shift-skip off: `n` pulses, each after an evaluation, then the terminating pass (R202, R205). -/
theorem shiftLoop_pulses {e : Entry} (h : e.skip = false) (n : Nat) (s : State) :
    shiftLoop e n s = terminate e (aluPass e.alu ((fun u => pulse (aluPass e.alu u))^[n] s)) := by
  induction n generalizing s with
  | zero => rfl
  | succ n ih => rw [shiftLoop, h, if_neg (by decide), ih, Function.iterate_succ_apply]

/-- The loop with shift-skip on: the terminating pass alone (R163, R205). -/
theorem shiftLoop_skip {e : Entry} (h : e.skip = true) (n : Nat) (s : State) :
    shiftLoop e n s = terminate e (aluPass e.alu s) := by
  cases n <;> simp [shiftLoop, h]

/-- What every pulse keeps holds before the terminating pass. -/
theorem shiftLoop_inv {e : Entry} (P : State → Prop) (hp : ∀ u, P u → P (pulse (aluPass e.alu u))) (n : Nat) {s : State} (h : P s) :
    ∃ u, P u ∧ shiftLoop e n s = terminate e (aluPass e.alu u) := by
  induction n generalizing s with
  | zero => exact ⟨s, h, rfl⟩
  | succ n ih =>
    rw [shiftLoop]
    split
    · exact ⟨s, h, rfl⟩
    · exact ih (hp s h)

/-- The end of a cycle is the state between cycles (R30, R31, R212). -/
theorem endCycle_idle (s : State) : (endCycle s).Idle :=
  ⟨⟨⟨rfl, rfl⟩, ⟨rfl, rfl⟩, ⟨rfl, rfl⟩, ⟨rfl, rfl⟩, ⟨rfl, rfl⟩, ⟨rfl, rfl⟩, ⟨rfl, rfl⟩, ⟨rfl, rfl⟩, ⟨rfl, rfl⟩⟩, rfl, rfl⟩

theorem cycleBack_idle (e : Entry) (s : State) : (cycleBack e s).Idle :=
  endCycle_idle _

/-- Step 11 after the loop: the address moves by the mask of the branch test (R211). -/
theorem cycleBack_csa (e : Entry) (s : State) :
    (cycleBack e s).csa = s.csa ^^^ nextMask e (runLoop e (tripCount e (runX e.xop (armTargets e s)))).cyc.brt := by
  simp [cycleBack]

/-- A word without the I/O start runs through to the end of its cycle. -/
theorem runMi_plain {e : Entry} (h : e.rop ≠ .ios) {s : State} (hs : s.hold = none) :
    runMi e s = cycleBack e (cycleFront e s) := by
  simp [runMi, cycleFront_hold h, hs]

/-- All that a word without branch request does to the address (R210, R211). -/
theorem terminate_brt {e : Entry} (h : e.brq = false) (s : State) : (terminate e s).cyc.brt = true := by
  simp [terminate, h]

end Sys2Proof.Machine
end

