-- ==== Sys2Proof/Laws/Memory.lean ====
section
/-! SUPPORT. Storage: reading after a write, and the canonical form (spec/20_memory.md R71 to R73). -/

namespace Sys2Proof.Machine

@[simp] theorem Memory.get_nil (a : Nat) : Memory.get [] a = cellDefault := rfl

theorem Memory.get_cons (k : Nat) (v : Word) (m : Memory) (a : Nat) :
    Memory.get ((k, v) :: m) a = if k = a then v else Memory.get m a := rfl

/-- A put leaves every other cell alone, whatever the form of the memory. -/
theorem Memory.get_put_other (m : Memory) {a b : Nat} (v : Word) (h : b ≠ a) : (Memory.put m a v).get b = m.get b := by
  induction m with
  | nil =>
    unfold Memory.put
    split
    · rfl
    · simp [Memory.get_cons, h.symm]
  | cons p m ih =>
    obtain ⟨k, x⟩ := p
    unfold Memory.put
    split_ifs with h1 h2 h3 h4
    · rfl
    · rw [Memory.get_cons, if_neg (Ne.symm h)]
    · rw [Memory.get_cons, if_neg (by omega)]
    · rw [Memory.get_cons, Memory.get_cons, if_neg (Ne.symm h), if_neg (by omega)]
    · rw [Memory.get_cons, Memory.get_cons, ih]

/-- Below the bound of a canonical memory nothing is listed. -/
theorem Memory.get_below {lo : Nat} {m : Memory} (h : Memory.wfFrom lo m = true) {a : Nat} (ha : a < lo) :
    m.get a = cellDefault := by
  induction m generalizing lo with
  | nil => rfl
  | cons p m ih =>
    obtain ⟨k, x⟩ := p
    simp only [Memory.wfFrom, Bool.and_eq_true, decide_eq_true_eq, bne_iff_ne] at h
    rw [Memory.get_cons, if_neg (by omega)]
    exact ih h.2 (by omega)

/-- A canonical memory reads back what was put. -/
theorem Memory.get_put_same {lo : Nat} {m : Memory} (h : Memory.wfFrom lo m = true) (a : Nat) (v : Word) :
    (Memory.put m a v).get a = v := by
  induction m generalizing lo with
  | nil =>
    unfold Memory.put
    split
    · simp_all
    · simp [Memory.get_cons]
  | cons p m ih =>
    obtain ⟨k, x⟩ := p
    simp only [Memory.wfFrom, Bool.and_eq_true, decide_eq_true_eq, bne_iff_ne] at h
    have hb := Memory.get_below h.2 (a := a)
    unfold Memory.put
    split_ifs with h1 h2 h3 h4
    · rw [Memory.get_cons, if_neg (by omega), hb (by omega), h2]
    · simp [Memory.get_cons]
    · rw [hb (by omega), h4]
    · simp [Memory.get_cons]
    · rw [Memory.get_cons, if_neg (by omega), ih h.2]

theorem Memory.wfFrom_mono {lo lo' : Nat} {m : Memory} (h : Memory.wfFrom lo m = true) (hl : lo' ≤ lo) :
    Memory.wfFrom lo' m = true := by
  cases m with
  | nil => rfl
  | cons p m =>
    obtain ⟨k, x⟩ := p
    simp only [Memory.wfFrom, Bool.and_eq_true, decide_eq_true_eq, bne_iff_ne] at h ⊢
    exact ⟨⟨⟨by omega, h.1.1.2⟩, h.1.2⟩, h.2⟩

/-- A put keeps the canonical form from a bound. -/
theorem Memory.wfFrom_put {lo : Nat} {m : Memory} (h : Memory.wfFrom lo m = true) {a : Nat} (hlo : lo ≤ a) (ha : a < memSize)
    (v : Word) : Memory.wfFrom lo (Memory.put m a v) = true := by
  induction m generalizing lo with
  | nil =>
    unfold Memory.put
    split
    · rfl
    · simp_all [Memory.wfFrom]
  | cons p m ih =>
    obtain ⟨k, x⟩ := p
    have h' := h
    simp only [Memory.wfFrom, Bool.and_eq_true, decide_eq_true_eq, bne_iff_ne] at h'
    unfold Memory.put
    split_ifs with h1 h2 h3 h4
    · exact h
    · simp only [Memory.wfFrom, Bool.and_eq_true, decide_eq_true_eq, bne_iff_ne]
      exact ⟨⟨⟨hlo, ha⟩, h2⟩, ⟨⟨by omega, h'.1.1.2⟩, h'.1.2⟩, h'.2⟩
    · exact Memory.wfFrom_mono h'.2 (by omega)
    · simp only [Memory.wfFrom, Bool.and_eq_true, decide_eq_true_eq, bne_iff_ne]
      subst h3
      exact ⟨⟨⟨hlo, ha⟩, h4⟩, h'.2⟩
    · simp only [Memory.wfFrom, Bool.and_eq_true, decide_eq_true_eq, bne_iff_ne]
      exact ⟨⟨⟨h'.1.1.1, h'.1.1.2⟩, h'.1.2⟩, ih h'.2 (by omega)⟩

/-- A put to a cell keeps the canonical form. -/
theorem Memory.wf_put {m : Memory} (h : m.wf = true) {a : Nat} (ha : a < memSize) (v : Word) : (Memory.put m a v).wf = true :=
  Memory.wfFrom_put h (Nat.zero_le a) ha v

/-- Every address register names a cell (R71). -/
theorem cellAddr_lt (v : Word) : cellAddr v < memSize := by
  unfold cellAddr memSize
  exact (v.extractLsb' 0 15).isLt

theorem cellAddr_eq (v : Word) : cellAddr v = v.toNat % 32768 := by
  simp [cellAddr, BitVec.extractLsb'_toNat]

/-- All that `MemWrite` does (R73): the addressed cell takes the value if it is writable; every other cell and everything else stays. -/
theorem State.memWrite_spec (s : State) (addr v : Word) :
    s.memWrite addr v = { s with mem := (s.memWrite addr v).mem } ∧
    (s.writable (cellAddr addr) = false → (s.memWrite addr v).mem = s.mem) ∧
    (s.writable (cellAddr addr) = true → s.mem.wf = true → (s.memWrite addr v).mem.get (cellAddr addr) = v) ∧
    (∀ a, a ≠ cellAddr addr → (s.memWrite addr v).mem.get a = s.mem.get a) ∧
    (s.mem.wf = true → (s.memWrite addr v).mem.wf = true) := by
  unfold State.memWrite
  split
  · rename_i h
    refine ⟨rfl, fun h' => absurd h (by simp [h']), fun _ hw => Memory.get_put_same hw _ _,
      fun a ha => Memory.get_put_other _ _ ha, fun hw => Memory.wf_put hw (cellAddr_lt _) _⟩
  · rename_i h
    exact ⟨rfl, fun _ => rfl, fun h' => absurd h' h, fun _ _ => rfl, id⟩

theorem State.reset_mem_wf : State.reset.mem.wf = true := rfl

end Sys2Proof.Machine
end

