-- ==== Sys2Proof/Laws/PerInstr.lean ====
section
/-! SUPPORT. The family `PartsOfWords`, said of every row: the code that stands for a row is of the row's format and shows the row. -/

namespace Sys2Proof

/-- The code of an instruction shows it. A row that is a part of a control word stands in its code, and the entry decoded from that
code selects it (R96, R100); a row of format IOQ leaves `Q[15:11]` zero and sets `Q.IOE`, but for IO_ACK (R98, R260). -/
def Laws.PartsOfWords.Statement (i : Instr) : Prop :=
  match encode i with
  | .mi w => i.part ≠ none → i.standsIn w = true ∧ (decodeEntry w).selects i = true
  | .ioq q => (∀ j, 11 ≤ j → q.getLsbD j = false) ∧ (i ≠ .ioAck → q.getLsbD 10 = true)

/-- The value of `Q` for an I/O operation (R98). -/
theorem Laws.encodeIo_bits (x : IoWord) :
    (∀ j, 11 ≤ j → (encodeIo x).getLsbD j = false) ∧ (encodeIo x).getLsbD 10 = true := by
  constructor
  · intro j hj
    unfold encodeIo
    simp only [BitVec.getLsbD_append]
    rw [if_neg (by omega), if_neg (by omega), if_neg (by omega), if_neg (by omega)]
    simp
  · unfold encodeIo
    simp only [BitVec.getLsbD_append]
    rfl

theorem Laws.PartsOfWords.sZero : Laws.PartsOfWords.Statement .sZero :=
  fun _ => ⟨by decide, by decide⟩

theorem Laws.PartsOfWords.sM : Laws.PartsOfWords.Statement .sM :=
  fun _ => ⟨by decide, by decide⟩

theorem Laws.PartsOfWords.sT : Laws.PartsOfWords.Statement .sT :=
  fun _ => ⟨by decide, by decide⟩

theorem Laws.PartsOfWords.sAcc : Laws.PartsOfWords.Statement .sAcc :=
  fun _ => ⟨by decide, by decide⟩

theorem Laws.PartsOfWords.rZero : Laws.PartsOfWords.Statement .rZero :=
  fun _ => ⟨by decide, by decide⟩

theorem Laws.PartsOfWords.rUnit : Laws.PartsOfWords.Statement .rUnit :=
  fun _ => ⟨by decide, by decide⟩

theorem Laws.PartsOfWords.rUnitx : Laws.PartsOfWords.Statement .rUnitx :=
  fun _ => ⟨by decide, by decide⟩

theorem Laws.PartsOfWords.rP : Laws.PartsOfWords.Statement .rP :=
  fun _ => ⟨by decide, by decide⟩

theorem Laws.PartsOfWords.rIos : Laws.PartsOfWords.Statement .rIos :=
  fun _ => ⟨by decide, by decide⟩

theorem Laws.PartsOfWords.rTre : Laws.PartsOfWords.Statement .rTre :=
  fun _ => ⟨by decide, by decide⟩

theorem Laws.PartsOfWords.rE : Laws.PartsOfWords.Statement .rE :=
  fun _ => ⟨by decide, by decide⟩

theorem Laws.PartsOfWords.rQ : Laws.PartsOfWords.Statement .rQ :=
  fun _ => ⟨by decide, by decide⟩

theorem Laws.PartsOfWords.rRdm : Laws.PartsOfWords.Statement .rRdm :=
  fun _ => ⟨by decide, by decide⟩

theorem Laws.PartsOfWords.rWtm : Laws.PartsOfWords.Statement .rWtm :=
  fun _ => ⟨by decide, by decide⟩

theorem Laws.PartsOfWords.rAcc : Laws.PartsOfWords.Statement .rAcc :=
  fun _ => ⟨by decide, by decide⟩

theorem Laws.PartsOfWords.xNone : Laws.PartsOfWords.Statement .xNone :=
  fun _ => ⟨by decide, by decide⟩

theorem Laws.PartsOfWords.xP : Laws.PartsOfWords.Statement .xP :=
  fun _ => ⟨by decide, by decide⟩

theorem Laws.PartsOfWords.xQ : Laws.PartsOfWords.Statement .xQ :=
  fun _ => ⟨by decide, by decide⟩

theorem Laws.PartsOfWords.xAcc : Laws.PartsOfWords.Statement .xAcc :=
  fun _ => ⟨by decide, by decide⟩

theorem Laws.PartsOfWords.xE : Laws.PartsOfWords.Statement .xE :=
  fun _ => ⟨by decide, by decide⟩

theorem Laws.PartsOfWords.xQb : Laws.PartsOfWords.Statement .xQb :=
  fun _ => ⟨by decide, by decide⟩

theorem Laws.PartsOfWords.xDec : Laws.PartsOfWords.Statement .xDec :=
  fun _ => ⟨by decide, by decide⟩

theorem Laws.PartsOfWords.xCab : Laws.PartsOfWords.Statement .xCab :=
  fun _ => ⟨by decide, by decide⟩

theorem Laws.PartsOfWords.aZero : Laws.PartsOfWords.Statement .aZero :=
  fun _ => ⟨by decide, by decide⟩

theorem Laws.PartsOfWords.aAnd : Laws.PartsOfWords.Statement .aAnd :=
  fun _ => ⟨by decide, by decide⟩

theorem Laws.PartsOfWords.aIor : Laws.PartsOfWords.Statement .aIor :=
  fun _ => ⟨by decide, by decide⟩

theorem Laws.PartsOfWords.aXor : Laws.PartsOfWords.Statement .aXor :=
  fun _ => ⟨by decide, by decide⟩

theorem Laws.PartsOfWords.aAdd : Laws.PartsOfWords.Statement .aAdd :=
  fun _ => ⟨by decide, by decide⟩

theorem Laws.PartsOfWords.aSub : Laws.PartsOfWords.Statement .aSub :=
  fun _ => ⟨by decide, by decide⟩

theorem Laws.PartsOfWords.aIorc : Laws.PartsOfWords.Statement .aIorc :=
  fun _ => ⟨by decide, by decide⟩

theorem Laws.PartsOfWords.aIors : Laws.PartsOfWords.Statement .aIors :=
  fun _ => ⟨by decide, by decide⟩

theorem Laws.PartsOfWords.ttt : Laws.PartsOfWords.Statement .ttt :=
  fun _ => ⟨by decide, by decide⟩

theorem Laws.PartsOfWords.ttm : Laws.PartsOfWords.Statement .ttm :=
  fun _ => ⟨by decide, by decide⟩

theorem Laws.PartsOfWords.xtr : Laws.PartsOfWords.Statement .xtr :=
  fun _ => ⟨by decide, by decide⟩

theorem Laws.PartsOfWords.brq : Laws.PartsOfWords.Statement .brq :=
  fun _ => ⟨by decide, by decide⟩

theorem Laws.PartsOfWords.iqn : Laws.PartsOfWords.Statement .iqn :=
  fun _ => ⟨by decide, by decide⟩

theorem Laws.PartsOfWords.mi (e : Entry) : Laws.PartsOfWords.Statement (.mi e) :=
  fun h => absurd rfl h

theorem Laws.PartsOfWords.ioStf (sc : BitVec 5) (hc : Bool) : Laws.PartsOfWords.Statement (.ioStf sc hc) :=
  ⟨(encodeIo_bits _).1, fun _ => (encodeIo_bits _).2⟩

theorem Laws.PartsOfWords.ioSfc (sc : BitVec 5) (hc : Bool) : Laws.PartsOfWords.Statement (.ioSfc sc hc) :=
  ⟨(encodeIo_bits _).1, fun _ => (encodeIo_bits _).2⟩

theorem Laws.PartsOfWords.ioStc (sc : BitVec 5) (hc : Bool) : Laws.PartsOfWords.Statement (.ioStc sc hc) :=
  ⟨(encodeIo_bits _).1, fun _ => (encodeIo_bits _).2⟩

theorem Laws.PartsOfWords.ioClc (sc : BitVec 5) (hc : Bool) : Laws.PartsOfWords.Statement (.ioClc sc hc) :=
  ⟨(encodeIo_bits _).1, fun _ => (encodeIo_bits _).2⟩

theorem Laws.PartsOfWords.ioSfs (sc : BitVec 5) (hc : Bool) : Laws.PartsOfWords.Statement (.ioSfs sc hc) :=
  ⟨(encodeIo_bits _).1, fun _ => (encodeIo_bits _).2⟩

theorem Laws.PartsOfWords.ioLi8 (sc : BitVec 5) (hc : Bool) : Laws.PartsOfWords.Statement (.ioLi8 sc hc) :=
  ⟨(encodeIo_bits _).1, fun _ => (encodeIo_bits _).2⟩

theorem Laws.PartsOfWords.ioLi16 (sc : BitVec 5) (hc : Bool) : Laws.PartsOfWords.Statement (.ioLi16 sc hc) :=
  ⟨(encodeIo_bits _).1, fun _ => (encodeIo_bits _).2⟩

theorem Laws.PartsOfWords.ioOt8 (sc : BitVec 5) (hc : Bool) : Laws.PartsOfWords.Statement (.ioOt8 sc hc) :=
  ⟨(encodeIo_bits _).1, fun _ => (encodeIo_bits _).2⟩

theorem Laws.PartsOfWords.ioOt16 (sc : BitVec 5) (hc : Bool) : Laws.PartsOfWords.Statement (.ioOt16 sc hc) :=
  ⟨(encodeIo_bits _).1, fun _ => (encodeIo_bits _).2⟩

theorem Laws.PartsOfWords.ioEow (sc : BitVec 5) (hc : Bool) : Laws.PartsOfWords.Statement (.ioEow sc hc) :=
  ⟨(encodeIo_bits _).1, fun _ => (encodeIo_bits _).2⟩

theorem Laws.PartsOfWords.ioNopLow (c : BitVec 1) (sc : BitVec 5) (hc : Bool) : Laws.PartsOfWords.Statement (.ioNopLow c sc hc) :=
  ⟨(encodeIo_bits _).1, fun _ => (encodeIo_bits _).2⟩

theorem Laws.PartsOfWords.ioNopHigh (c : BitVec 2) (sc : BitVec 5) (hc : Bool) : Laws.PartsOfWords.Statement (.ioNopHigh c sc hc) :=
  ⟨(encodeIo_bits _).1, fun _ => (encodeIo_bits _).2⟩

theorem Laws.PartsOfWords.ioClf : Laws.PartsOfWords.Statement .ioClf := by
  refine ⟨fun j hj => ?_, fun h => ?_⟩
  · by_cases h : j < 16
    · have : j = 11 ∨ j = 12 ∨ j = 13 ∨ j = 14 ∨ j = 15 := by omega
      rcases this with rfl | rfl | rfl | rfl | rfl <;> rfl
    · exact BitVec.getLsbD_of_ge _ j (by omega)
  · rfl

theorem Laws.PartsOfWords.ioAck : Laws.PartsOfWords.Statement .ioAck := by
  refine ⟨fun j hj => ?_, fun h => ?_⟩
  · by_cases h : j < 16
    · have : j = 11 ∨ j = 12 ∨ j = 13 ∨ j = 14 ∨ j = 15 := by omega
      rcases this with rfl | rfl | rfl | rfl | rfl <;> rfl
    · exact BitVec.getLsbD_of_ge _ j (by omega)
  · exact absurd rfl h

end Sys2Proof
end

