-- ==== Sys2Proof/Laws/Transfer.lean ====
section
/-! SUPPORT. The serial transfer `shift(count, dir, aux)` (spec/44_io_arbiter.md R274): what 8 and 16 passes leave in the accumulator,
`IOR` and `AUX`. -/

namespace Sys2Proof.Machine

/-! ### The values alone -/

/-- `IOR` takes a bit as its selector says (R131). -/
def iorTakes (byte b : Bool) (v : Word) : Word :=
  if byte then shiftInByte b v else shiftIn b v

/-- One pass of an input transfer: accumulator and `IOR`. -/
def inPass (byte : Bool) (p : Word × Word) : Word × Word :=
  (shiftIn (p.2.getLsbD 0) p.1, iorTakes byte (p.2.getLsbD 0) p.2)

/-- One pass of an output transfer: accumulator, `IOR` and a register that receives the accumulator. -/
def outPass (byte : Bool) (p : Word × Word × Word) : Word × Word × Word :=
  (shiftIn (p.1.getLsbD 0) p.1, iorTakes byte (p.1.getLsbD 0) p.2.1, shiftIn (p.1.getLsbD 0) p.2.2)

/-- The bits of a right shift, for passes counted so far: the bits of `a` above those of `x`, entering from the low end of `x`. -/
def passed (n : Nat) (x a : Word) (j : Nat) : Bool :=
  if j + n < 16 then a.getLsbD (j + n) else if j < 16 then x.getLsbD (j + n - 16) else false

theorem shiftIn_passed {n : Nat} (hn : n < 16) (x a v : Word) (b : Bool) (hb : b = x.getLsbD n)
    (hv : ∀ j, v.getLsbD j = passed n x a j) (j : Nat) : (shiftIn b v).getLsbD j = passed (n + 1) x a j := by
  rw [getLsbD_shiftIn, hb, hv]
  unfold passed
  by_cases h : j + 1 = 16
  · simp [h, show j < 16 by omega, show ¬ j + (n + 1) < 16 by omega, show j + (n + 1) - 16 = n by omega]
  · rw [if_neg h, show j + 1 + n = j + (n + 1) by omega]
    by_cases h1 : j + (n + 1) < 16
    · simp [h1]
    · by_cases h2 : j < 16
      · simp [h1, h2, show j + 1 < 16 by omega]
      · simp [h1, h2, show ¬ j + 1 < 16 by omega]

/-- The low byte after `n` byte rotations in. -/
def passedByte (n : Nat) (x i : Word) (j : Nat) : Bool :=
  if j < 8 then (if j + n < 8 then i.getLsbD (j + n) else x.getLsbD (j + n - 8)) else i.getLsbD j

theorem shiftInByte_passed {n : Nat} (hn : n < 8) (x i v : Word) (b : Bool) (hb : b = x.getLsbD n)
    (hv : ∀ j, v.getLsbD j = passedByte n x i j) (j : Nat) : (shiftInByte b v).getLsbD j = passedByte (n + 1) x i j := by
  rw [getLsbD_shiftInByte (by omega), hb, hv, hv]
  unfold passedByte
  by_cases h : j < 7
  · simp [h, show j < 8 by omega, show j + 1 < 8 by omega, show j + 1 + n = j + (n + 1) by omega]
  · by_cases h7 : j = 7
    · simp [h7, show ¬ 7 + (n + 1) < 8 by omega, show 7 + (n + 1) - 8 = n by omega]
    · simp [h, h7, show ¬ j < 8 by omega]

/-- An input transfer of `n` passes, 16-bit `IOR`. -/
theorem inPass_word (a i : Word) (n : Nat) (hn : n ≤ 16) :
    (∀ j, ((inPass false)^[n] (a, i)).1.getLsbD j = passed n i a j) ∧
    (∀ j, ((inPass false)^[n] (a, i)).2.getLsbD j = passed n i i j) := by
  induction n with
  | zero => constructor <;> intro j <;> simp only [Function.iterate_zero_apply, passed] <;> split <;> simp_all
  | succ n ih =>
    obtain ⟨h1, h2⟩ := ih (by omega)
    have hb : ((inPass false)^[n] (a, i)).2.getLsbD 0 = i.getLsbD n := by
      rw [h2]; simp [passed, show n < 16 by omega]
    rw [Function.iterate_succ_apply']
    exact ⟨shiftIn_passed (by omega) _ _ _ _ hb h1, shiftIn_passed (by omega) _ _ _ _ hb h2⟩

/-- An input transfer of `n` passes, `IOR` rotating its low byte. -/
theorem inPass_byte (a i : Word) (n : Nat) (hn : n ≤ 8) :
    (∀ j, ((inPass true)^[n] (a, i)).1.getLsbD j = passed n i a j) ∧
    (∀ j, ((inPass true)^[n] (a, i)).2.getLsbD j = passedByte n i i j) := by
  induction n with
  | zero => constructor <;> intro j <;> simp only [Function.iterate_zero_apply, passed, passedByte] <;> split <;> simp_all
  | succ n ih =>
    obtain ⟨h1, h2⟩ := ih (by omega)
    have hb : ((inPass true)^[n] (a, i)).2.getLsbD 0 = i.getLsbD n := by
      rw [h2]; simp [passedByte, show n < 8 by omega]
    rw [Function.iterate_succ_apply']
    exact ⟨shiftIn_passed (by omega) _ _ _ _ hb h1, shiftInByte_passed (by omega) _ _ _ _ hb h2⟩

/-- An output transfer of `n` passes, 16-bit `IOR`. -/
theorem outPass_word (a i x : Word) (n : Nat) (hn : n ≤ 16) :
    (∀ j, ((outPass false)^[n] (a, i, x)).1.getLsbD j = passed n a a j) ∧
    (∀ j, ((outPass false)^[n] (a, i, x)).2.1.getLsbD j = passed n a i j) ∧
    (∀ j, ((outPass false)^[n] (a, i, x)).2.2.getLsbD j = passed n a x j) := by
  induction n with
  | zero =>
    refine ⟨?_, ?_, ?_⟩ <;> intro j <;> simp only [Function.iterate_zero_apply, passed] <;> split <;> simp_all
  | succ n ih =>
    obtain ⟨h1, h2, h3⟩ := ih (by omega)
    have hb : ((outPass false)^[n] (a, i, x)).1.getLsbD 0 = a.getLsbD n := by
      rw [h1]; simp [passed, show n < 16 by omega]
    rw [Function.iterate_succ_apply']
    exact ⟨shiftIn_passed (by omega) _ _ _ _ hb h1, shiftIn_passed (by omega) _ _ _ _ hb h2,
      shiftIn_passed (by omega) _ _ _ _ hb h3⟩

/-- An output transfer of `n` passes, `IOR` rotating its low byte. -/
theorem outPass_byte (a i x : Word) (n : Nat) (hn : n ≤ 8) :
    (∀ j, ((outPass true)^[n] (a, i, x)).1.getLsbD j = passed n a a j) ∧
    (∀ j, ((outPass true)^[n] (a, i, x)).2.1.getLsbD j = passedByte n a i j) ∧
    (∀ j, ((outPass true)^[n] (a, i, x)).2.2.getLsbD j = passed n a x j) := by
  induction n with
  | zero =>
    refine ⟨?_, ?_, ?_⟩ <;> intro j <;> simp only [Function.iterate_zero_apply, passed, passedByte] <;> split <;> simp_all
  | succ n ih =>
    obtain ⟨h1, h2, h3⟩ := ih (by omega)
    have hb : ((outPass true)^[n] (a, i, x)).1.getLsbD 0 = a.getLsbD n := by
      rw [h1]; simp [passed, show n < 16 by omega]
    rw [Function.iterate_succ_apply']
    exact ⟨shiftIn_passed (by omega) _ _ _ _ hb h1, shiftInByte_passed (by omega) _ _ _ _ hb h2,
      shiftIn_passed (by omega) _ _ _ _ hb h3⟩

/-! ### The transfer of a state -/

/-- The registers of a transfer have 16 bits and are wired and on: the accumulator from `x`, `IOR` from `y`. -/
abbrev State.Wired (s : State) (x y : RegName) : Prop :=
  s.acc.en = true ∧ s.acc.src = .reg x ∧ s.regs.ior.en = true ∧ s.regs.ior.src = .reg y ∧ s.acc.width = 16 ∧ s.regs.ior.width = 16

/-- The registers a transfer never touches (R274). -/
abbrev SameOthers (s t : State) : Prop :=
  t.regs.t = s.regs.t ∧ t.regs.m = s.regs.m ∧ t.regs.p = s.regs.p ∧ t.regs.q = s.regs.q ∧ t.regs.e = s.regs.e ∧
  t.regs.iorByte = s.regs.iorByte ∧ (s.ab = true → t.regs.a = s.regs.a) ∧ (s.ab = false → t.regs.b = s.regs.b)

theorem aluExec_pass (g : RegName → Bool) (s : State) :
    (transferPass g s).regs = s.regs.pulse g s.buses.tbus := by
  unfold transferPass
  cases s.cyc.ir <;> simp

/-- One pass of an input transfer. -/
theorem transferPass_inp {s : State} (h : s.Wired .IOR .IOR) :
    ((transferPass (transferSet false s.accName) s).acc.word, (transferPass (transferSet false s.accName) s).regs.ior.word) =
      inPass s.regs.iorByte (s.acc.word, s.regs.ior.word) ∧
    (transferPass (transferSet false s.accName) s).Wired .IOR .IOR ∧
    SameOthers s (transferPass (transferSet false s.accName) s) ∧
    (transferPass (transferSet false s.accName) s).regs.aux = s.regs.aux := by
  obtain ⟨h1, h2, h3, h4, h5, h6⟩ := h
  unfold State.Wired SameOthers
  rw [aluExec_pass, Regs.pulse_eq]
  cases hab : s.ab <;>
    simp_all [State.acc, State.accName, transferSet, inPass, iorTakes, Regs.sourceBit, Regs.outBit, BitReg.pulse_word,
      BitReg.pulseSel_word, BitReg.pulse_src, BitReg.pulse_en, aluExec_pass, Regs.pulse_eq]

/-- One pass of an output transfer without the auxiliary buffer. -/
theorem transferPass_out {s : State} (h : s.Wired s.accName s.accName) :
    (∀ x, ((transferPass (transferSet false s.accName) s).acc.word,
        (transferPass (transferSet false s.accName) s).regs.ior.word, (outPass s.regs.iorByte (s.acc.word, s.regs.ior.word, x)).2.2) =
      outPass s.regs.iorByte (s.acc.word, s.regs.ior.word, x)) ∧
    (transferPass (transferSet false s.accName) s).Wired s.accName s.accName ∧
    SameOthers s (transferPass (transferSet false s.accName) s) ∧
    (transferPass (transferSet false s.accName) s).regs.aux = s.regs.aux := by
  obtain ⟨h1, h2, h3, h4, h5, h6⟩ := h
  unfold State.Wired SameOthers
  rw [aluExec_pass, Regs.pulse_eq]
  cases hab : s.ab <;>
    simp_all [State.acc, State.accName, transferSet, outPass, iorTakes, Regs.sourceBit, Regs.outBit, BitReg.pulse_word,
      BitReg.pulseSel_word, BitReg.pulse_src, BitReg.pulse_en, aluExec_pass, Regs.pulse_eq]

/-- One pass of an output transfer with the auxiliary buffer (R278). -/
theorem transferPass_out_aux {s : State} (h : s.Wired s.accName s.accName) (hx : s.regs.aux.en = true)
    (hs : s.regs.aux.src = .reg s.accName) (hw : s.regs.aux.width = 16) :
    ((transferPass (transferSet true s.accName) s).acc.word, (transferPass (transferSet true s.accName) s).regs.ior.word,
        (transferPass (transferSet true s.accName) s).regs.aux.word) =
      outPass s.regs.iorByte (s.acc.word, s.regs.ior.word, s.regs.aux.word) ∧
    (transferPass (transferSet true s.accName) s).Wired s.accName s.accName ∧
    (transferPass (transferSet true s.accName) s).regs.aux.en = true ∧
    (transferPass (transferSet true s.accName) s).regs.aux.src = .reg s.accName ∧
    (transferPass (transferSet true s.accName) s).regs.aux.width = 16 ∧
    SameOthers s (transferPass (transferSet true s.accName) s) := by
  obtain ⟨h1, h2, h3, h4, h5, h6⟩ := h
  unfold State.Wired SameOthers
  rw [aluExec_pass, Regs.pulse_eq]
  cases hab : s.ab <;>
    simp_all [State.acc, State.accName, transferSet, outPass, iorTakes, Regs.sourceBit, Regs.outBit, BitReg.pulse_word,
      BitReg.pulseSel_word, BitReg.pulse_src, BitReg.pulse_en, aluExec_pass, Regs.pulse_eq]

theorem State.accName_congr {s t : State} (h : t.ab = s.ab) : t.accName = s.accName := by
  simp [State.accName, h]

theorem SameOthers.trans {s t u : State} (hab : t.ab = s.ab) (h1 : SameOthers s t) (h2 : SameOthers t u) : SameOthers s u := by
  unfold SameOthers at *
  simp_all

/-- `n` passes of an input transfer. -/
theorem transferPasses_inp (n : Nat) {s : State} (h : s.Wired .IOR .IOR) (g : RegName → Bool)
    (hg : g = transferSet false s.accName) :
    ((transferPasses g n s).acc.word, (transferPasses g n s).regs.ior.word) =
      (inPass s.regs.iorByte)^[n] (s.acc.word, s.regs.ior.word) ∧
    SameOthers s (transferPasses g n s) ∧ (transferPasses g n s).regs.aux = s.regs.aux := by
  induction n generalizing s with
  | zero => simp [transferPasses, SameOthers]
  | succ n ih =>
    obtain ⟨k1, k2, k3, k4⟩ := transferPass_inp h
    rw [← hg] at k1 k2 k3 k4
    obtain ⟨m1, m2, m3⟩ := ih k2 (by rw [hg, State.accName_congr (transferPass_ab _ _)])
    have kb : (transferPass g s).regs.iorByte = s.regs.iorByte := k3.2.2.2.2.2.1
    rw [transferPasses, m1, kb, k1, Function.iterate_succ_apply]
    exact ⟨rfl, k3.trans (transferPass_ab _ _) m2, m3.trans k4⟩

/-- `n` passes of an output transfer without the auxiliary buffer. -/
theorem transferPasses_out (n : Nat) {s : State} (h : s.Wired s.accName s.accName) (g : RegName → Bool)
    (hg : g = transferSet false s.accName) (x : Word) :
    ((transferPasses g n s).acc.word, (transferPasses g n s).regs.ior.word) =
      (((outPass s.regs.iorByte)^[n] (s.acc.word, s.regs.ior.word, x)).1,
        ((outPass s.regs.iorByte)^[n] (s.acc.word, s.regs.ior.word, x)).2.1) ∧
    SameOthers s (transferPasses g n s) ∧ (transferPasses g n s).regs.aux = s.regs.aux := by
  induction n generalizing s x with
  | zero => simp [transferPasses, SameOthers]
  | succ n ih =>
    obtain ⟨k1, k2, k3, k4⟩ := transferPass_out h
    rw [← hg] at k1 k2 k3 k4
    have ka : (transferPass g s).accName = s.accName := State.accName_congr (transferPass_ab _ _)
    have kb : (transferPass g s).regs.iorByte = s.regs.iorByte := k3.2.2.2.2.2.1
    obtain ⟨m1, m2, m3⟩ := ih (s := transferPass g s) (by rw [ka]; exact k2) (by rw [ka]; exact hg)
      (outPass s.regs.iorByte (s.acc.word, s.regs.ior.word, x)).2.2
    rw [transferPasses, m1, kb, k1 x, Function.iterate_succ_apply]
    exact ⟨rfl, k3.trans (transferPass_ab _ _) m2, m3.trans k4⟩

/-- `n` passes of an output transfer with the auxiliary buffer. -/
theorem transferPasses_out_aux (n : Nat) {s : State} (h : s.Wired s.accName s.accName) (hx : s.regs.aux.en = true)
    (hs : s.regs.aux.src = .reg s.accName) (hw : s.regs.aux.width = 16) (g : RegName → Bool) (hg : g = transferSet true s.accName) :
    ((transferPasses g n s).acc.word, (transferPasses g n s).regs.ior.word, (transferPasses g n s).regs.aux.word) =
      (outPass s.regs.iorByte)^[n] (s.acc.word, s.regs.ior.word, s.regs.aux.word) ∧
    SameOthers s (transferPasses g n s) := by
  induction n generalizing s with
  | zero => simp [transferPasses, SameOthers]
  | succ n ih =>
    obtain ⟨k1, k2, k3, k4, kw, k5⟩ := transferPass_out_aux h hx hs hw
    rw [← hg] at k1 k2 k3 k4 kw k5
    have ka : (transferPass g s).accName = s.accName := State.accName_congr (transferPass_ab _ _)
    have kb : (transferPass g s).regs.iorByte = s.regs.iorByte := k5.2.2.2.2.2.1
    obtain ⟨m1, m2⟩ := ih (s := transferPass g s) (by rw [ka]; exact k2) k3 (by rw [ka]; exact k4) kw (by rw [ka]; exact hg)
    rw [transferPasses, m1, kb, k1, Function.iterate_succ_apply]
    exact ⟨rfl, k5.trans (transferPass_ab _ _) m2⟩

/-! ### Whole transfers -/

/-- A transfer keeps the values its last pass left, and every register out of its set. -/
theorem transfer_regs (n : Nat) (dir : Dir) (aux : Bool) (s : State) :
    (transfer n dir aux s).acc.word = (transferPasses (transferSet aux s.accName) n (wireTransfer dir aux s)).acc.word ∧
    (transfer n dir aux s).regs.ior.word =
      (transferPasses (transferSet aux s.accName) n (wireTransfer dir aux s)).regs.ior.word ∧
    (transfer n dir aux s).regs.aux.word =
      (transferPasses (transferSet aux s.accName) n (wireTransfer dir aux s)).regs.aux.word := by
  have hab : (transferPasses (transferSet aux s.accName) n (wireTransfer dir aux s)).ab = s.ab := by simp
  refine ⟨?_, rfl, rfl⟩
  unfold State.acc
  rw [transfer_ab, hab]
  cases s.ab <;> rfl

@[simp] theorem wireTransfer_accName (dir : Dir) (aux : Bool) (s : State) : (wireTransfer dir aux s).accName = s.accName := by
  simp [State.accName]

/-- The registers a transfer moves have 16 bits: the accumulator, `IOR` and `AUX`. -/
abbrev State.Words (s : State) : Prop :=
  s.acc.width = 16 ∧ s.regs.ior.width = 16 ∧ s.regs.aux.width = 16

theorem State.DefaultWidths.words {s : State} (h : s.DefaultWidths) : s.Words := by
  have hw : s.regs.widths = defaultWidths := h
  simp only [Regs.widths, defaultWidths, Widths.mk.injEq] at hw
  obtain ⟨ha, hb, -, -, -, -, -, hi, hx⟩ := hw
  refine ⟨?_, hi, hx⟩
  unfold State.acc
  split <;> assumption

theorem wireTransfer_inp {s : State} (h : s.Words) :
    (wireTransfer .inp false s).Wired .IOR .IOR ∧ (wireTransfer .inp false s).acc.word = s.acc.word ∧
    (wireTransfer .inp false s).regs.ior.word = s.regs.ior.word ∧
    (wireTransfer .inp false s).regs.aux = s.regs.aux ∧ (wireTransfer .inp false s).regs.iorByte = s.regs.iorByte := by
  obtain ⟨h1, h2, -⟩ := h
  unfold State.Wired wireTransfer
  cases h : s.ab <;> simp_all [State.acc, State.setAcc, wireAcc, wireIor, wireAux]

theorem wireTransfer_out (aux : Bool) {s : State} (h : s.Words) :
    (wireTransfer .out aux s).Wired s.accName s.accName ∧ (wireTransfer .out aux s).acc.word = s.acc.word ∧
    (wireTransfer .out aux s).regs.ior.word = s.regs.ior.word ∧ (wireTransfer .out aux s).regs.aux.word = s.regs.aux.word ∧
    (aux = true → (wireTransfer .out aux s).regs.aux.en = true ∧ (wireTransfer .out aux s).regs.aux.src = .reg s.accName) ∧
    (wireTransfer .out aux s).regs.aux.width = 16 ∧
    (wireTransfer .out aux s).regs.iorByte = s.regs.iorByte := by
  obtain ⟨h1, h2, h3⟩ := h
  unfold State.Wired wireTransfer
  cases h : s.ab <;> cases aux <;> simp_all [State.acc, State.setAcc, State.accName, wireAcc, wireIor, wireAux]

/-- Two words of equal bits below 16. -/
theorem word_ext {v w : Word} (h : ∀ j, j < 16 → v.getLsbD j = w.getLsbD j) : v = w := by
  apply BitVec.eq_of_getLsbD_eq
  intro j hj
  exact h j hj

theorem eq_of_passed_16 {x a v : Word} (h : ∀ j, v.getLsbD j = passed 16 x a j) : v = x :=
  word_ext fun j hj => by rw [h]; simp [passed, hj]

theorem eq_of_passed_8 {x a v : Word} (h : ∀ j, v.getLsbD j = passed 8 x a j) :
    v = x.extractLsb' 0 8 ++ a.extractLsb' 8 8 :=
  word_ext fun j hj => by
    rw [h, BitVec.getLsbD_append, BitVec.getLsbD_extractLsb', BitVec.getLsbD_extractLsb']
    by_cases h8 : j < 8
    · simp [passed, h8, show j + 8 < 16 by omega, Nat.add_comm]
    · simp [passed, h8, hj, show ¬ j + 8 < 16 by omega, show j - 8 < 8 by omega, show j + 8 - 16 = j - 8 by omega]

theorem eq_of_passedByte_8 {x i v : Word} (h : ∀ j, v.getLsbD j = passedByte 8 x i j) :
    v = i.extractLsb' 8 8 ++ x.extractLsb' 0 8 :=
  word_ext fun j hj => by
    rw [h, BitVec.getLsbD_append, BitVec.getLsbD_extractLsb', BitVec.getLsbD_extractLsb']
    by_cases h8 : j < 8
    · simp [passedByte, h8]
    · simp [passedByte, h8, show j - 8 < 8 by omega, show 8 + (j - 8) = j by omega]

/-- All that a 16-pass input transfer leaves in the registers it moves (R268, R274). -/
theorem transfer_in16 {s : State} (hw : s.Words) (h : s.regs.iorByte = false) :
    (transfer 16 .inp false s).acc.word = s.regs.ior.word ∧ (transfer 16 .inp false s).regs.ior.word = s.regs.ior.word ∧
    (transfer 16 .inp false s).regs.aux.word = s.regs.aux.word := by
  obtain ⟨w1, w2, w3, w4, w5⟩ := wireTransfer_inp hw
  obtain ⟨p1, _, p3⟩ := transferPasses_inp 16 w1 (transferSet false s.accName) (by rw [wireTransfer_accName])
  obtain ⟨r1, r2, r3⟩ := transfer_regs 16 .inp false s
  rw [w5, h, w2, w3] at p1
  obtain ⟨q1, q2⟩ := inPass_word s.acc.word s.regs.ior.word 16 (le_refl _)
  rw [← p1] at q1 q2
  rw [r1, r2, r3, p3, w4]
  exact ⟨eq_of_passed_16 q1, eq_of_passed_16 q2, rfl⟩

/-- All that an 8-pass input transfer leaves in the registers it moves (R267, R274). -/
theorem transfer_in8 {s : State} (hw : s.Words) (h : s.regs.iorByte = true) :
    (transfer 8 .inp false s).acc.word = s.regs.ior.word.extractLsb' 0 8 ++ s.acc.word.extractLsb' 8 8 ∧
    (transfer 8 .inp false s).regs.ior.word = s.regs.ior.word ∧
    (transfer 8 .inp false s).regs.aux.word = s.regs.aux.word := by
  obtain ⟨w1, w2, w3, w4, w5⟩ := wireTransfer_inp hw
  obtain ⟨p1, _, p3⟩ := transferPasses_inp 8 w1 (transferSet false s.accName) (by rw [wireTransfer_accName])
  obtain ⟨r1, r2, r3⟩ := transfer_regs 8 .inp false s
  rw [w5, h, w2, w3] at p1
  obtain ⟨q1, q2⟩ := inPass_byte s.acc.word s.regs.ior.word 8 (le_refl _)
  rw [← p1] at q1 q2
  rw [r1, r2, r3, p3, w4]
  refine ⟨eq_of_passed_8 q1, (eq_of_passedByte_8 q2).trans ?_, rfl⟩
  apply BitVec.extractLsb'_append_extractLsb'_eq_extractLsb' (by rfl) |>.trans
  simp

/-- The values an output transfer leaves, by the passes of the three values. -/
theorem transfer_out_passes (n : Nat) (aux : Bool) {s : State} (hw : s.Words) :
    (transfer n .out aux s).acc.word = ((outPass s.regs.iorByte)^[n] (s.acc.word, s.regs.ior.word, s.regs.aux.word)).1 ∧
    (transfer n .out aux s).regs.ior.word = ((outPass s.regs.iorByte)^[n] (s.acc.word, s.regs.ior.word, s.regs.aux.word)).2.1 ∧
    (transfer n .out aux s).regs.aux.word =
      if aux then ((outPass s.regs.iorByte)^[n] (s.acc.word, s.regs.ior.word, s.regs.aux.word)).2.2 else s.regs.aux.word := by
  obtain ⟨w1, w2, w3, w4, w5, wx, w6⟩ := wireTransfer_out aux hw
  obtain ⟨r1, r2, r3⟩ := transfer_regs n .out aux s
  have wn := wireTransfer_accName .out aux s
  rw [r1, r2, r3]
  cases aux
  · obtain ⟨p1, _, p3⟩ := transferPasses_out n (s := wireTransfer .out false s) (by rw [wn]; exact w1)
      (transferSet false s.accName) (by rw [wn]) s.regs.aux.word
    rw [w6, w2, w3] at p1
    obtain ⟨p4, p5⟩ := Prod.mk.injEq .. ▸ p1
    exact ⟨p4, p5, by rw [p3]; exact w4⟩
  · obtain ⟨x1, x2⟩ := w5 rfl
    obtain ⟨p1, _⟩ := transferPasses_out_aux n (s := wireTransfer .out true s) (by rw [wn]; exact w1) x1
      (by rw [wn]; exact x2) wx (transferSet true s.accName) (by rw [wn])
    rw [w6, w2, w3, w4] at p1
    rw [← p1]
    exact ⟨rfl, rfl, rfl⟩

/-- All that a 16-pass output transfer leaves in the registers it moves (R270, R274, R278). -/
theorem transfer_out16 {s : State} (hw : s.Words) (h : s.regs.iorByte = false) (aux : Bool) :
    (transfer 16 .out aux s).acc.word = s.acc.word ∧ (transfer 16 .out aux s).regs.ior.word = s.acc.word ∧
    (transfer 16 .out aux s).regs.aux.word = if aux then s.acc.word else s.regs.aux.word := by
  obtain ⟨r1, r2, r3⟩ := transfer_out_passes 16 aux hw
  rw [h] at r1 r2 r3
  obtain ⟨q1, q2, q3⟩ := outPass_word s.acc.word s.regs.ior.word s.regs.aux.word 16 (le_refl _)
  rw [r1, r2, r3, eq_of_passed_16 q3]
  exact ⟨eq_of_passed_16 q1, eq_of_passed_16 q2, rfl⟩

/-- All that an 8-pass output transfer leaves in the registers it moves (R269, R274, R278). -/
theorem transfer_out8 {s : State} (hw : s.Words) (h : s.regs.iorByte = true) (aux : Bool) :
    (transfer 8 .out aux s).acc.word = s.acc.word.extractLsb' 0 8 ++ s.acc.word.extractLsb' 8 8 ∧
    (transfer 8 .out aux s).regs.ior.word = s.regs.ior.word.extractLsb' 8 8 ++ s.acc.word.extractLsb' 0 8 ∧
    (transfer 8 .out aux s).regs.aux.word =
      if aux then s.acc.word.extractLsb' 0 8 ++ s.regs.aux.word.extractLsb' 8 8 else s.regs.aux.word := by
  obtain ⟨r1, r2, r3⟩ := transfer_out_passes 8 aux hw
  rw [h] at r1 r2 r3
  obtain ⟨q1, q2, q3⟩ := outPass_byte s.acc.word s.regs.ior.word s.regs.aux.word 8 (le_refl _)
  rw [r1, r2, r3, eq_of_passed_8 q3]
  exact ⟨eq_of_passed_8 q1, eq_of_passedByte_8 q2, rfl⟩

end Sys2Proof.Machine
end

