-- ==== Sys2Proof/Laws/Widths.lean ====
section
/-! SUPPORT. A register keeps the width it was made with (spec/40_bit_register.md R120): no operation and no step changes one. -/

namespace Sys2Proof.Machine

/-! ### Registers -/

/-- A pulse keeps every width. -/
@[simp] theorem Regs.pulse_widths (g : RegName → Bool) (tbus : Bool) (r : Regs) : (r.pulse g tbus).widths = r.widths := by
  rw [Regs.pulse_eq]
  simp only [Regs.widths, Widths.mk.injEq]
  refine ⟨?_, ?_, ?_, ?_, ?_, ?_, ?_, ?_, ?_⟩ <;> split <;> simp
@[simp] theorem Regs.release_widths (r : Regs) : r.release.widths = r.widths := rfl

/-- A write of the accumulator that keeps its width keeps every width. -/
theorem State.setAcc_widths {s : State} {r : BitReg} (h : r.width = s.acc.width) : (s.setAcc r).regs.widths = s.regs.widths := by
  unfold State.setAcc State.acc at *
  cases hab : s.ab <;> simp_all [Regs.widths]

/-! ### The rows of a control word -/

@[simp] theorem runS_widths (op : SOp) (s : State) : (runS op s).regs.widths = s.regs.widths := by
  cases op
  case acc => exact State.setAcc_widths rfl
  all_goals rfl
@[simp] theorem runX_widths (op : XOp) (s : State) : (runX op s).regs.widths = s.regs.widths := by
  cases op
  case acc => exact State.setAcc_widths rfl
  all_goals rfl
@[simp] theorem specialCase_widths (op : XOp) (s : State) : (specialCase op s).regs.widths = s.regs.widths := by
  cases op <;> rfl
@[simp] theorem preload_widths (e : Entry) (s : State) : (preload e s).regs.widths = s.regs.widths := by
  unfold preload; split <;> rfl
@[simp] theorem armTargets_widths (e : Entry) (s : State) : (armTargets e s).regs.widths = s.regs.widths := by
  unfold armTargets; cases e.ttt <;> cases e.ttm <;> rfl
@[simp] theorem commitCarry_widths (s : State) : (commitCarry s).regs.widths = s.regs.widths := by
  unfold commitCarry; split <;> rfl
@[simp] theorem decimalCommit_widths (op : AOp) (s : State) : (decimalCommit op s).regs.widths = s.regs.widths := by
  unfold decimalCommit commitDigit
  split
  · dsimp only
    split
    · rfl
    · exact State.setAcc_widths rfl
  · rfl

/-! ### The arbiter -/

@[simp] theorem wireTransfer_widths (dir : Dir) (aux : Bool) (s : State) : (wireTransfer dir aux s).regs.widths = s.regs.widths := by
  unfold wireTransfer
  cases h : s.ab <;> cases aux <;> cases dir <;> simp [h, Regs.widths, State.setAcc, State.acc, wireAcc, wireIor, wireAux]
@[simp] theorem transferPass_widths (g : RegName → Bool) (s : State) : (transferPass g s).regs.widths = s.regs.widths := by
  unfold transferPass; cases s.cyc.ir <;> simp
@[simp] theorem transferPasses_widths (g : RegName → Bool) (n : Nat) (s : State) :
    (transferPasses g n s).regs.widths = s.regs.widths := by
  induction n generalizing s with
  | zero => rfl
  | succ n ih => rw [transferPasses, ih, transferPass_widths]
@[simp] theorem transfer_widths (n : Nat) (dir : Dir) (aux : Bool) (s : State) :
    (transfer n dir aux s).regs.widths = s.regs.widths := by
  have h := transferPasses_widths (transferSet aux s.accName) n (wireTransfer dir aux s)
  rw [wireTransfer_widths] at h
  exact h
@[simp] theorem latchAndShift_widths (n : Nat) (s : State) : (latchAndShift n s).regs.widths = s.regs.widths :=
  (transfer_widths _ _ _ _).trans rfl
@[simp] theorem transferOut_widths (n : Nat) (s : State) : (transferOut n s).regs.widths = s.regs.widths := by
  simp [transferOut]
@[simp] theorem ioEnd_widths (hc : Bool) (s : State) : (ioEnd hc s).regs.widths = s.regs.widths := by
  unfold ioEnd; split <;> rfl
@[simp] theorem ioFinish_widths (h : Hold) (s : State) : (ioFinish h s).regs.widths = s.regs.widths := by
  unfold ioFinish; cases h.post <;> simp
@[simp] theorem handshake_widths (dir : Dir) (h : Hold) (s : State) : (handshake dir h s).regs.widths = s.regs.widths := by
  unfold handshake; dsimp only; split <;> simp
@[simp] theorem offer_widths (v : Word) (hc : Bool) (s : State) : (offer v hc s).regs.widths = s.regs.widths := by
  unfold offer; dsimp only; split <;> simp
@[simp] theorem ioBegin_widths (sc : BitVec 5) (s : State) : (ioBegin sc s).regs.widths = s.regs.widths := by
  simp [ioBegin]
@[simp] theorem endService_widths (s : State) : (endService s).regs.widths = s.regs.widths := rfl
@[simp] theorem serviceRequestAcknowledge_widths (s : State) : (serviceRequestAcknowledge s).regs.widths = s.regs.widths := rfl
/-- The selector of `IOR` is no width. -/
@[simp] theorem Regs.widths_iorByte (r : Regs) (v : Bool) : Regs.widths { r with iorByte := v } = r.widths := rfl
/-- No I/O operation changes a width. -/
@[simp] theorem dispatchIo_widths (i : IoWord) (s : State) : (dispatchIo i s).regs.widths = s.regs.widths := by
  unfold dispatchIo
  cases i.op <;> simp [runIoStf, runIoSfc, runIoStc, runIoClc, runIoSfs, runIoLi8, runIoLi16, runIoOt8, runIoOt16, runIoEow,
    runIoNopLow, runIoNopHigh]
@[simp] theorem arbiterExec_widths (s : State) : (arbiterExec s).regs.widths = s.regs.widths := by
  unfold arbiterExec runIoAck; cases s.ioWord <;> dsimp only <;> (try split) <;> simp
@[simp] theorem runR_widths (op : ROp) (s : State) : (runR op s).regs.widths = s.regs.widths := by
  cases op
  case acc => exact State.setAcc_widths rfl
  case ios => exact arbiterExec_widths s
  case wtm => exact congrArg Regs.widths (State.memWrite_regs _ _ _)
  all_goals rfl

/-! ### The cycle and the step -/

@[simp] theorem pulse_widths (s : State) : (pulse s).regs.widths = s.regs.widths := by
  simp [pulse]
@[simp] theorem terminate_widths (e : Entry) (s : State) : (terminate e s).regs.widths = s.regs.widths := by
  unfold terminate; dsimp only; split <;> simp
@[simp] theorem shiftLoop_widths (e : Entry) (n : Nat) (s : State) : (shiftLoop e n s).regs.widths = s.regs.widths := by
  induction n generalizing s with
  | zero => simp [shiftLoop]
  | succ n ih => unfold shiftLoop; split <;> simp [ih]
@[simp] theorem runLoop_widths (e : Entry) (s : State) : (runLoop e s).regs.widths = s.regs.widths := by
  simp [runLoop]
@[simp] theorem endCycle_widths (s : State) : (endCycle s).regs.widths = s.regs.widths := rfl
@[simp] theorem cycleBack_widths (e : Entry) (s : State) : (cycleBack e s).regs.widths = s.regs.widths := by
  simp [cycleBack]
@[simp] theorem beginCycle_widths (e : Entry) (s : State) : (beginCycle e s).regs.widths = s.regs.widths := rfl
@[simp] theorem cycleFront_widths (e : Entry) (s : State) : (cycleFront e s).regs.widths = s.regs.widths := by
  simp [cycleFront]
/-- No control word changes a width. -/
@[simp] theorem runMi_widths (e : Entry) (s : State) : (runMi e s).regs.widths = s.regs.widths := by
  unfold runMi; dsimp only; split <;> simp
@[simp] theorem resume_widths (h : Hold) (s : State) : (resume h s).regs.widths = s.regs.widths := by
  unfold resume; dsimp only; split <;> simp
@[simp] theorem heldStep_widths (h : Hold) (s : State) : (heldStep h s).regs.widths = s.regs.widths := by
  unfold heldStep; dsimp only; split <;> simp

end Sys2Proof.Machine
end

