-- ==== Sys2Proof/Tests/Slice0.lean ====
section
/-! SUPPORT. Tests. Every expected result is the spec's own: the vectors of spec/95_test_vectors.md (V2 to V7, S2, S5 to S7), the worked
word of spec/30_encoding.md R101 and the masks of spec/opcode_table.json. Then, for each statement with hypotheses, a state and operands
that meet them. -/

namespace Sys2Proof.Tests

open Sys2Proof.Machine

/-! ## Well-formedness: one ill-formed entry for each check -/

/-- The no-operation word, decoded (V2.4). -/
def haltEntry : Entry :=
  { sop := .zero, rop := .zero, xop := .none, aop := .zero, alu := 0, ttt := false, ttm := false, xtr := false, brq := false, iqn := false,
    sc := 0, pm := 0, sm := 0, skip := true }

theorem test_wf_accepts_halt : haltEntry.wf = true := by decide
theorem test_wf_refuses_io_start_without_transfer_enable :
    ({ haltEntry with rop := .ios, xtr := false, skip := false } : Entry).transferAgrees = false ∧
    ({ haltEntry with rop := .ios, xtr := false, skip := false } : Entry).wf = false := by decide
theorem test_wf_refuses_plain_unit_with_transfer_enable :
    ({ haltEntry with rop := .unit, xtr := true, skip := false } : Entry).wf = false := by decide
theorem test_wf_refuses_through_e_into_e :
    ({ haltEntry with rop := .tre, xop := .e, skip := false } : Entry).throughEAgrees = false ∧
    ({ haltEntry with rop := .tre, xop := .e, skip := false } : Entry).wf = false := by decide
theorem test_wf_refuses_derived_e_with_an_x_operation :
    ({ haltEntry with rop := .e, xop := .q, skip := false } : Entry).wf = false := by decide
theorem test_wf_refuses_a_wrong_skip_flag : ({ haltEntry with skip := false } : Entry).wf = false := by decide

theorem test_wf_refuses_an_opcode_that_is_not_the_operations :
    ({ haltEntry with alu := 4 } : Entry).wf = false := by decide

/-! ## Decoding of words written out from the spec's encoding (V2) -/

theorem test_decode_V2_1 : decodeTableWord 32 0x08F14BF = some (.mi
    { sop := .acc, rop := .unit, xop := .acc, aop := .add, alu := 4, ttt := false, ttm := false, xtr := false, brq := false, iqn := false,
      sc := 15, pm := 0, sm := 1, skip := false }) := by decide
theorem test_decode_V2_2 : decodeEntry 0xFFFFFFF =
    { sop := .acc, rop := .acc, xop := .cab, aop := .iors, alu := 7, ttt := false, ttm := false, xtr := false, brq := true, iqn := true,
      sc := 15, pm := 15, sm := 15, skip := false } := by decide
theorem test_decode_V2_4 : decodeEntry 0x000100C = haltEntry := by decide
theorem test_decode_V2_6 : decodeEntry 0x00F04BF =
    { haltEntry with sop := .acc, rop := .unitx, xop := .acc, aop := .add, alu := 4, xtr := true, sc := 15, skip := false } := by decide
theorem test_decode_V2_8 : decodeEntry 0x00010CC = { haltEntry with xop := .qb } := by decide
theorem test_decode_V2_9 : decodeEntry 0x3A0180C = { haltEntry with brq := true, pm := 3, sm := 5 } := by decide
theorem test_decode_V2_10 : decodeEntry 0x00F51BF =
    { haltEntry with sop := .acc, rop := .q, xop := .acc, aop := .sub, alu := 5, sc := 15, skip := false } := by decide
theorem test_decode_V2_11 : decodeEntry 0x00F31AF =
    { haltEntry with sop := .acc, rop := .q, xop := .acc, aop := .ior, alu := 2, sc := 15, skip := false } := by decide
theorem test_decode_V2_12 : decodeEntry 0x00F129C =
    { haltEntry with rop := .p, xop := .p, aop := .add, alu := 4, sc := 15, skip := false } := by decide

/-- Field permutations (V2): S, and SM. -/
theorem test_decode_permutations :
    (decodeEntry 0b10).sop = .m ∧ (decodeEntry 0b01).sop = .t ∧ (decodeEntry (0b110 <<< 8)).rop = .tre ∧
    (decodeEntry (0b011 <<< 8)).rop = .wtm ∧ (decodeEntry (0b011 <<< 5)).xop = .dec ∧ (decodeEntry (0b0100 <<< 20)).sm = 8 := by
  decide

/-- Every row's match, written alone, selects the row (spec/opcode_table.json). -/
theorem test_decode_rows :
    [(0x2, Instr.sM), (0x1, .sT), (0x3, .sAcc), (0x0, .sZero), (0x0, .rZero), (0x1400, .rUnit), (0x400, .rUnitx), (0x1200, .rP),
      (0x200, .rIos), (0x600, .rTre), (0x640, .rE), (0x100, .rQ), (0x500, .rRdm), (0x300, .rWtm), (0x700, .rAcc), (0x0, .xNone),
      (0x80, .xP), (0x20, .xQ), (0xA0, .xAcc), (0x40, .xE), (0xC0, .xQb), (0x60, .xDec), (0xE0, .xCab), (0x0, .aZero),
      (0x4000, .aAnd), (0x2000, .aIor), (0x6000, .aXor), (0x10, .aAdd), (0x4010, .aSub), (0x2010, .aIorc), (0x6010, .aIors),
      (0x0, .ttt), (0x0, .ttm), (0x0, .xtr), (0x800, .brq), (0x8000, .iqn)].all
        (fun x => (decodeEntry (BitVec.ofNat 28 x.1)).selects x.2) = true := by decide

/-- The I/O operations (R98): one word each, from V7 (0x0405 and so on). -/
theorem test_decode_io :
    decodeTableWord 16 0x0405 = some (.ioStf 5 false) ∧ decodeTableWord 16 0x0605 = some (.ioStf 5 true) ∧
    decodeTableWord 16 0x0425 = some (.ioSfc 5 false) ∧ decodeTableWord 16 0x0443 = some (.ioStc 3 false) ∧
    decodeTableWord 16 0x0465 = some (.ioClc 5 false) ∧ decodeTableWord 16 0x0485 = some (.ioSfs 5 false) ∧
    decodeTableWord 16 0x04A5 = some (.ioLi8 5 false) ∧ decodeTableWord 16 0x04C5 = some (.ioLi16 5 false) ∧
    decodeTableWord 16 0x04E5 = some (.ioOt8 5 false) ∧ decodeTableWord 16 0x0505 = some (.ioOt16 5 false) ∧
    decodeTableWord 16 0x0525 = some (.ioEow 5 false) ∧ decodeTableWord 16 0x0545 = some (.ioNopLow 0 5 false) ∧
    decodeTableWord 16 0x07E5 = some (.ioNopHigh 3 5 true) ∧ decodeTableWord 16 0x00E5 = some .ioAck := by decide
theorem test_decode_refuses_other_bits :
    decodeRaw 32 (2 ^ 28) = .error .tooWide ∧ decodeRaw 16 (2 ^ 16) = .error .tooWide ∧ decodeRaw 8 0 = .error .noSuchFormat := by
  decide

/-! ## One step -/

/-- The reset machine with a control word at `CSA`. -/
def at' (csa : CsAddr) (w : ControlWord) : State :=
  { State.reset with csa := csa, cs := [(csa.toNat, w)] }

def setRegs (f : Regs → Regs) (s : State) : State := { s with regs := f s.regs }
def setArb (f : Arbiter → Arbiter) (s : State) : State := { s with arb := f s.arb }
def withA (v : Word) : State → State := setRegs fun r => { r with a := r.a.load v }
def withB (v : Word) : State → State := setRegs fun r => { r with b := r.b.load v }
def withT (v : Word) : State → State := setRegs fun r => { r with t := r.t.load v }
def withM (v : Word) : State → State := setRegs fun r => { r with m := r.m.load v }
def withP (v : Word) : State → State := setRegs fun r => { r with p := r.p.load v }
def withQ (v : Word) : State → State := setRegs fun r => { r with q := r.q.load v }
def withE (v : BitVec 4) : State → State := setRegs fun r => { r with e := r.e.load v }
def withIor (v : Word) : State → State := setRegs fun r => { r with ior := r.ior.load v }
def withAux (v : Word) : State → State := setRegs fun r => { r with aux := r.aux.load v }
def withCarry (s : State) : State := { s with bc := true }
def withDecimalCarry (s : State) : State := { s with dc := true }
def withCell (a : Nat) (v : Word) (s : State) : State := { s with mem := s.mem.put a v }
def onB (s : State) : State := { s with ab := true }
/-- A device at a select code that gives this answer to its first call. -/
def withDevice (k : SelectCode) (busy : Bool) (v : Word) (s : State) : State :=
  { s with arb := { s.arb with directory := s.arb.directory ++ [⟨k, 1⟩] }
           ext := { s.ext with answers := s.ext.answers ++ [(busy, v)] } }

/-- One step answers a next state of which `p` holds. -/
def stepped (s : State) (p : State → Bool) : Bool :=
  match step s with
  | .next t => p t
  | .fault _ => false
  | .refused _ => false

/-- One instruction answers a next state of which `p` holds. -/
def ran (i : Instr) (s : State) (p : State → Bool) : Bool :=
  match exec i s with
  | .next t => p t
  | .fault _ => false
  | .refused _ => false

theorem test_sZero : exec .sZero (withCarry State.reset) = .next (withCarry State.reset) := rfl
theorem test_sM_V5_30 : stepped (withM 0x0F0F (at' 0 0x00F30AE)) (fun t => t.regs.a.word == 0x0F0F) = true := by decide
theorem test_sT_V5_31 : stepped (withT 0x1357 (at' 0 0x00F308D)) (fun t => t.regs.p.word == 0x1357) = true := by decide
theorem test_sAcc_V5_33 :
    stepped (withA 0xBEEF (at' 0 0x00F300B)) (fun t => t.regs.t.word == 0xBEEF && t.regs.a.word == 0xBEEF) = true := by decide
theorem test_rUnit_S6 :
    stepped (withA 0x00FF (at' 0 0x00F14BF)) (fun t => t.regs.a.word == 0x0100 && !t.bc) = true := by decide
theorem test_rUnit_V5_37 :
    stepped (withA 0xFFFF (at' 0 0x00F14BF)) (fun t => t.regs.a.word == 0x0000 && t.bc) = true := by decide
theorem test_rUnitx_V5_53 :
    stepped (withA 7 (at' 0 0x00F04BF)) (fun t => t.regs.a.word == 8) = true := by decide
theorem test_rP_V5_35 : stepped (withP 0x2468 (at' 0 0x00F3204)) (fun t => t.regs.m.word == 0x2468) = true := by decide
theorem test_rIos_V6_11 :
    stepped (withDevice 5 false 0 (withQ 0x0405 (withA 3 (withCarry (at' 0 0x00F02BF)))))
      (fun t => t.arb.rdy && t.regs.a.word == 4 && !t.bc) = true := by decide
theorem test_rIos_V6_12 :
    stepped (withDevice 5 false 0 (withQ 0x0605 (withA 3 (withCarry (at' 0 0x00F02BF)))))
      (fun t => !t.arb.rdy && t.regs.a.word == 3 && t.bc) = true := by decide
theorem test_rTre_V5_41 :
    stepped (withT 0x1234 (withE 5 (at' 0 0x00F3608))) (fun t => t.regs.t.word == 0x2345 && t.regs.e.digit == 1) = true := by
  decide
theorem test_rTre_V5_42 :
    stepped (withT 0x1234 (withE 5 (at' 0 0x00F36AC)))
      (fun t => t.regs.a.word == 0x2345 && t.regs.t.word == 0x1234 && t.regs.e.digit == 1) = true := by decide
theorem test_rE_V5_43 :
    stepped (withT 0x1234 (withE 9 (at' 0 0x0033648))) (fun t => t.regs.t.word == 0x9123 && t.regs.e.digit == 9) = true := by
  decide
theorem test_rQ_V5_36 :
    stepped (onB (withA 1 (withB 2 (withQ 0x8001 (at' 0 0x00F31AC)))))
      (fun t => t.regs.b.word == 0x8001 && t.regs.a.word == 1) = true := by decide
theorem test_rRdm_V5_45 :
    stepped (withM 0x8010 (withCell 0x10 0x1234 (at' 0 0x00F150C))) (fun t => t.regs.t.word == 0x1234) = true := by decide
theorem test_rRdm_V5_46 :
    stepped (withM 0x8010 (withCell 0x10 0x1234 (at' 0 0x000150C))) (fun t => t.regs.t.word == 0x091A) = true := by decide
theorem test_rWtm_V5_47 :
    stepped (withM 0x0100 (withT 0xBEEF (at' 0 0x000130C))) (fun t => t.mem == [(0x0100, 0xBEEF)]) = true := by decide
theorem test_rWtm_V5_48 :
    stepped { withCell 0x0100 0x0042 (withM 0x0100 (withT 0xBEEF (at' 0 0x000130C))) with rom := [⟨0x0100, 0x01FF⟩] }
      (fun t => t.mem.get 0x0100 == 0x0042) = true := by decide
theorem test_rAcc_V5_40 :
    stepped (withA 0x4001 (at' 0 0x00F17BF)) (fun t => t.regs.a.word == 0x8002 && !t.bc) = true := by decide
theorem test_xP_V5_39 :
    stepped (withCarry (withP 0xFFFF (at' 0 0x00F129C))) (fun t => t.regs.p.word == 0x0000 && t.bc) = true := by decide
theorem test_xQ_V5_32 : stepped (withT 0xCAFE (at' 0 0x00F302D)) (fun t => t.regs.q.word == 0xCAFE) = true := by decide
theorem test_xE_V5_44 :
    stepped (withA 0x1234 (at' 0 0x003304F)) (fun t => t.regs.e.digit == 4 && t.regs.a.word == 0x4123) = true := by decide
theorem test_xQb_V5_50 : stepped (withQ 0xFFFF (at' 0 0x00010CC)) (fun t => t.regs.q.word == 0xFFBF) = true := by decide
theorem test_xQb_V5_51 :
    stepped (withA 3 (at' 0 0x00030CF)) (fun t => t.regs.a.word == 0x8001 && t.regs.q.word == 0x0040) = true := by decide
theorem test_xCab_V5_49 :
    stepped (withA 0x1111 (withB 0x2222 (at' 0 0x00F30EB))) (fun t => t.regs.t.word == 0x1111 && t.ab) = true := by decide
theorem test_xDec_V3_2 :
    stepped (withA 0x1234 (withQ 0x0999 (at' 0 0x003117F)))
      (fun t => t.regs.a.word == 0x3123 && t.regs.q.word == 0x9099 && t.dc && !t.bc) = true := by decide +kernel
theorem test_xDec_V3_7 :
    stepped (withDecimalCarry (withA 5 (withQ 7 (at' 0 0x003517F))))
      (fun t => t.regs.a.word == 0x8000 && t.regs.q.word == 0x7000 && !t.dc) = true := by decide +kernel
theorem test_xDec_V3_11 :
    stepped (withA 9 (at' 0 0x003147F)) (fun t => t.regs.a.word == 0x9000 && t.dc) = true := by decide +kernel
theorem test_aZero_V5_1 :
    stepped (withCarry (withA 0x00FF (withQ 0x0F0F (at' 0 0x00F11AF)))) (fun t => t.regs.a.word == 0 && t.bc) = true := by
  decide
theorem test_aAnd_V5_2 :
    stepped (withA 0x00FF (withQ 0x0F0F (at' 0 0x00F51AF))) (fun t => t.regs.a.word == 0x000F && !t.bc) = true := by decide
theorem test_aIor_V5_3 :
    stepped (withCarry (withA 0x00FF (withQ 0x0F0F (at' 0 0x00F31AF)))) (fun t => t.regs.a.word == 0x0FFF && t.bc) = true := by
  decide
theorem test_aXor_V5_4 :
    stepped (withA 0x00FF (withQ 0x0F0F (at' 0 0x00F71AF))) (fun t => t.regs.a.word == 0x0FF0) = true := by decide
theorem test_aAdd_V5_6 :
    stepped (withCarry (withA 0x00FF (withQ 0x0F0F (at' 0 0x00F11BF)))) (fun t => t.regs.a.word == 0x100F && !t.bc) = true := by
  decide
theorem test_aAdd_V5_21 :
    stepped (withA 0x1234 (withQ 1 (at' 0 0x00311BF))) (fun t => t.regs.a.word == 0x5123 && t.regs.q.word == 0x1000) = true := by
  decide
theorem test_aSub_V5_16 :
    stepped (withCarry (withA 3 (withQ 5 (at' 0 0x00F51BF)))) (fun t => t.regs.a.word == 0xFFFE && !t.bc) = true := by decide
theorem test_aSub_V5_19 :
    stepped (withCarry (withA 0x8000 (withQ 1 (at' 0 0x00F51BF)))) (fun t => t.regs.a.word == 0x7FFF && t.bc) = true := by
  decide
theorem test_aIorc_V5_9 :
    stepped (withCarry (withA 0x00FF (withQ 0x0F0F (at' 0 0x00F31BF)))) (fun t => t.regs.a.word == 0x0FFF && !t.bc) = true := by
  decide
theorem test_aIors_V5_10 :
    stepped (withA 0x00FF (withQ 0x0F0F (at' 0 0x00F71BF))) (fun t => t.regs.a.word == 0x0FFF && t.bc) = true := by decide
theorem test_ttt_ttm_V5_34 :
    stepped (withA 0x7E57 (at' 0 0x00F3003)) (fun t => t.regs.t.word == 0x7E57 && t.regs.m.word == 0x7E57) = true := by decide
theorem test_ttt_V5_38 : stepped (withT 0x00FF (at' 0 0x00F1419)) (fun t => t.regs.t.word == 0x0100) = true := by decide
theorem test_xtr_V5_54 : ran .xtr (withA 0x00FF State.reset) (fun t => t.buses.iob == some 0x00FF) = true := by decide
theorem test_brq_V6_1 :
    stepped (withA 0xFFFF (at' 0x90 0x08F1CBF)) (fun t => t.regs.a.word == 0 && t.bc && t.csa == 0x90) = true := by decide
theorem test_brq_V6_5 : stepped (withP 1 (at' 0xD2 0x3A0180C)) (fun t => t.csa == 0xE7) = true := by decide
/-- A skip operation and the branch on its carry in one word (R205, R263, R266): `RDY` is 0, so IO_SFC goes to the odd address. -/
theorem test_brq_sees_the_io_skip :
    stepped (withDevice 5 false 0 (withQ 0x0425 (at' 0x90 0x0800A0C))) (fun t => t.csa == 0x91) = true ∧
    stepped (withDevice 5 false 0 (withQ 0x0485 (withCarry (at' 0x90 0x0800A0C)))) (fun t => t.csa == 0x90) = true := by decide
theorem test_iqn_V6_2 :
    stepped (withA 5 (at' 0x90 0x08F94BF)) (fun t => t.regs.a.word == 5 && !t.bc && t.csa == 0x91) = true := by decide
theorem test_iqn_V6_3 :
    stepped (withCarry (withA 5 (at' 0x90 0x08F94BF))) (fun t => t.regs.a.word == 7 && !t.bc && t.csa == 0x91) = true := by
  decide
theorem test_mi_V6_6 : stepped (at' 0xFF 0xFF0100C) (fun t => t.csa == 0x00) = true := by decide
theorem test_mi_V6_7 : stepped (at' 0xFF 0xFF0180C) (fun t => t.csa == 0x01) = true := by decide
theorem test_halt_V6_8 : stepped (at' 0x42 0x000100C) (fun t =>
    t.csa == 0x42 && t.regs == State.reset.regs && t.arb == State.reset.arb && t.buses == Buses.idle && !t.ab && !t.bc && !t.dc) = true := by
  decide
theorem test_carry_commit_V6_9 :
    stepped { withA 0xFFFF (withQ 1 (at' 0 0x00F11BF)) with cfg := { defaultParams with carryCommit := .tentative } }
      (fun t => t.regs.a.word == 0 && t.bc) = true := by decide

/-! ## I/O operations through the I/O start word (V7) -/

/-- The I/O start word of V7 with `Q` and a device at select code 5. -/
def io (q : Word) : State := withDevice 5 false 0x1234 (withQ q (at' 0 0x080020C))

theorem test_ioStf_V7_7 :
    stepped (io 0x0405) (fun t => t.arb.rdy && t.csa == 1 && !t.arb.ssf && t.arb.sel == 5) = true := by decide
theorem test_ioClf_V7_8 :
    stepped (setArb (fun r => { r with rdy := true }) (io 0x0605)) (fun t => !t.arb.rdy) = true := by decide
theorem test_ioSfc_V7_9 : stepped (io 0x0425) (fun t => t.bc) = true := by decide
theorem test_ioSfc_V7_11 : stepped (withCarry (io 0x0427)) (fun t => !t.bc) = true := by decide
theorem test_ioSfs_V7_13 : stepped (withCarry (io 0x0485)) (fun t => !t.bc) = true := by decide
theorem test_ioSfs_V7_14 : stepped (io 0x0487) (fun t => t.bc) = true := by decide
theorem test_ioStc_V7_15 :
    stepped (withDevice 3 false 0 (withQ 0x0443 (withA 0x0041 (at' 0 0x080020C))))
      (fun t => t.arb.ena && !t.arb.bsy && t.ext.calls == [.output ⟨3, 1⟩ 0x0041] && t.csa == 1) = true := by decide
theorem test_ioStc_V7_16 :
    stepped (withDevice 3 true 0 (withQ 0x0443 (withA 0x0041 (at' 0 0x080020C))))
      (fun t => t.arb.ena && t.arb.bsy && t.hold == some { post := .none, clf := false } &&
        stepped { t with ext := { t.ext with env := [[.periph ⟨3, 1⟩ .complete]] } }
          (fun u => !u.arb.bsy && u.arb.rdy && u.csa == 1 && u.hold == none)) = true := by decide
theorem test_ioClc_V7_17 :
    stepped (setArb (fun r => { r with ena := true }) (io 0x0465)) (fun t => !t.arb.ena) = true := by decide
theorem test_ioLi8_V7_18 :
    stepped (withA 0xABCD (withIor 0xFFFF (io 0x04A5)))
      (fun t => t.regs.ior.word == 0x1234 && t.regs.a.word == 0x34AB && t.regs.iorByte) = true := by decide
theorem test_ioLi8_V7_25 :
    stepped (withA 0xABCD (withIor 0xFFFF (io 0x04A7)))
      (fun t => t.regs.ior.word == 0 && t.regs.a.word == 0x00AB && !t.arb.bsy) = true := by decide
theorem test_ioLi16_V7_26 :
    stepped (onB (withA 0xABCD (withB 0x5555 (io 0x04C5)))) (fun t => t.regs.b.word == 0x1234 && t.regs.a.word == 0xABCD) = true := by
  decide
theorem test_ioLi16_V7_27 :
    stepped (withDevice 5 false 0x0F00 (withDevice 5 false 0x00F0 (withQ 0x04C5 (at' 0 0x080020C))))
      (fun t => t.regs.ior.word == 0x0FF0 && t.regs.a.word == 0x0FF0 && t.ext.calls == [.input ⟨5, 1⟩, .input ⟨5, 1⟩]) = true := by
  decide
theorem test_ioOt8_V7_29 :
    stepped (withA 0xABCD (withIor 0x7700 (io 0x04E5)))
      (fun t => t.regs.ior.word == 0x77CD && t.regs.a.word == 0xCDAB && t.ext.calls == [.output ⟨5, 1⟩ 0x00CD]) = true := by
  decide
theorem test_ioOt8_V7_31 :
    stepped (withDevice 15 false 0 (withAux 0x1122 (withA 0xABCD (withQ 0x04EF (at' 0 0x080020C)))))
      (fun t => t.regs.ior.word == 0x00CD && t.regs.aux.word == 0xCD11 && t.regs.a.word == 0xCDAB) = true := by decide
theorem test_ioOt16_V7_32 :
    stepped (withDevice 15 false 0 (withAux 0x1122 (withA 0xABCD (withQ 0x050F (at' 0 0x080020C)))))
      (fun t => t.regs.ior.word == 0xABCD && t.regs.aux.word == 0xABCD && t.ext.calls == [.output ⟨15, 1⟩ 0xABCD]) = true := by
  decide
theorem test_ioOt16_V7_33 :
    stepped (withA 0xABCD (io 0x0500)) (fun t => t.regs.ior.word == 0xABCD && t.ext.calls == [] && !t.arb.bsy) = true := by
  decide
theorem test_ioEow_V7_34 :
    stepped (setRegs (fun r => { r with iorByte := true }) (setArb (fun r => { r with inh := true, ssf := true }) (io 0x0525)))
      (fun t => !t.arb.inh && !t.arb.ssf && !t.regs.iorByte) = true := by decide
theorem test_ioNopLow_V7_35 :
    stepped (setArb (fun r => { r with inh := true, ssf := true }) (io 0x0545))
      (fun t => !t.arb.ssf && t.arb.inh && t.arb.sel == 5) = true := by decide
theorem test_ioNopHigh_V7_36 :
    stepped (setArb (fun r => { r with rdy := true }) (io 0x07E5)) (fun t => !t.arb.rdy) = true := by decide
theorem test_ioAck_V7_20 :
    stepped (withA 0x7777 (setArb (fun r => { r with stb := 0x0011, rdy := true, ena := true }) (io 0x00E5)))
      (fun t => t.arb.ssf && t.arb.inh && t.arb.sel == 0 && t.regs.ior.word == 0x0011 && t.arb.rdy && t.arb.ena && !t.arb.bsy &&
        !t.bc && t.regs.a.word == 0x7777 && t.arb.stb == 0x0011) = true := by decide
theorem test_ioAck_V7_23 :
    stepped (withIor 0x5555 (setArb (fun r => { r with inh := true, stp := true, sel := 5 }) (io 0x00E5)))
      (fun t => t.arb.ssf && t.arb.inh && t.arb.sel == 0 && t.regs.ior.word == 0) = true := by decide
theorem test_serviceRequested_V7_2_to_5 :
    (setArb (fun r => { r with stb := 0x0010 }) State.reset).serviceRequested = true ∧
    (setArb (fun r => { r with stb := 0x0010, inh := true }) State.reset).serviceRequested = false ∧
    (setArb (fun r => { r with stp := true, inh := true }) State.reset).serviceRequested = true ∧
    (setArb (fun r => { r with stb := 0x0010, stp := true, ssf := true }) State.reset).serviceRequested = false := by decide

/-! ## Preset, tables, bit registers -/

theorem test_preset_V7_37 :
    let t := powerOnPreset (withA 0x1234 { State.reset with csa := 0x42, arb := { State.reset.arb with
      bsy := true, inh := true, ena := true, rdy := true, ssf := true, stb := 0x7FFF, sel := 9 } })
    t.csa = 0xFF ∧ t.arb = State.reset.arb ∧ t.regs.a.word = 0x1234 := by decide
theorem test_refAlu_entries :
    [(0x00, 0), (0x80, 4), (0x81, 5), (0x83, 6), (0x91, 6), (0x93, 7), (0xA0, 5), (0xA1, 4), (0xB0, 6), (0xC3, 5), (0xE0, 6),
      (0x43, 1), (0x61, 1), (0x63, 0)].all (fun x => (tableAt refAlu (BitVec.ofNat 8 x.1)).toNat == x.2) = true := by decide
theorem test_refBcd_entries :
    [(0x00, 0x00), (0x09, 0x09), (0x0A, 0x10), (0x0F, 0x15), (0x10, 0x16), (0x12, 0x18), (0x13, 0x19), (0x26, 0x00), (0x2F, 0x09),
      (0x30, 0x10), (0x35, 0x15), (0x36, 0x16), (0x1F, 0x0F), (0x20, 0x0A), (0x3F, 0x09), (0x40, 0x00), (0x4A, 0x10)].all
        (fun x => (tableAt refBcd (BitVec.ofNat 8 x.1)).toNat == x.2) = true := by decide
theorem test_pulse_V4_1 :
    ((({ width := 16, val := 0x12B5, src := .reg .A, en := true, lat := false } : BitReg).loadInput true).shift).word = 0x895A := by decide
theorem test_pulse_V4_3 :
    ((({ width := 16, val := 0x12B5, src := .reg .IOR, en := true, lat := false } : BitReg).loadInput true).shiftSel true).word =
      0x12DA := by
  decide
theorem test_cross_V4_5 :
    let p := crossPulses 1 (({ width := 16, val := 0x8001, src := .reg .B, en := true, lat := false } : BitReg),
      ({ width := 16, val := 0x0002, src := .reg .A, en := true, lat := false } : BitReg))
    p.1.word = 0x4000 ∧ p.2.word = 0x8001 := by decide
theorem test_cross_V4_6 :
    let p := crossPulses 16 (({ width := 16, val := 0x8001, src := .reg .B, en := true, lat := false } : BitReg),
      ({ width := 16, val := 0x0002, src := .reg .A, en := true, lat := false } : BitReg))
    p.1.word = 0x0002 ∧ p.2.word = 0x8001 := by decide

/-! ## Construction (R331 to R335) -/

/-- A dump line: the low `n` bits of a value, the most significant digit first. -/
def line : Nat → Nat → List Char
  | 0, _ => []
  | n + 1, v => line n (v / 2) ++ [if v % 2 = 1 then '1' else '0']

/-- Dump files of the reference tables and of a control store of `HALT` words. -/
def files : RomFiles :=
  { cs := some (List.replicate 256 (line 28 0x000100C))
    alu := some (refAlu.toList.map fun v => line 8 v.toNat)
    bcd := some (refBcd.toList.map fun v => line 8 v.toNat) }

/-- The default `OPTABLE` as a configuration supplies it. -/
def ops : OpSource := opSourceOf defaultOps

/-- The default `OPTABLE` with A code 3 unassigned. -/
def gappedOps : OpSource := { ops with a := ops.a.set 3 none }

def refusedWith (x : Except Fault State) (e : Fault) : Bool :=
  match x with
  | .ok _ => false
  | .error f => f == e

theorem test_dump_cs : controlValues files.cs = .ok (List.replicate 256 0x000100C) := by decide +kernel
theorem test_dump_alu : dumpValues files.alu = .ok (refAlu.toList.map BitVec.toNat) := by decide +kernel
theorem test_dump_bcd : dumpValues files.bcd = .ok (refBcd.toList.map BitVec.toNat) := by decide +kernel
theorem test_skipCheck_refuses :
    skipCheck { defaultOps with a := defaultOps.a.set 5 .zero } refAlu = false ∧ skipCheck defaultOps refAlu = true := by decide +kernel
theorem test_decimal_add : decimalCasesHold refAlu refBcd .add AOp.add.code = true := by
  simp only [decimalCasesHold, decimalCaseHolds, digitResult, digitPasses_succ_ref, tableAt_refBcd]
  simp only [digitPasses, refUpdates, if_true]
  decide +kernel
theorem test_decimal_sub : decimalCasesHold refAlu refBcd .sub AOp.sub.code = true := by
  simp only [decimalCasesHold, decimalCaseHolds, digitResult, digitPasses_succ_ref, tableAt_refBcd]
  simp only [digitPasses, refUpdates, if_true]
  decide +kernel
theorem test_tables_accepted : checkTables defaultOps refAlu refBcd = .ok () := by
  refine (checkTables_eq_ok_iff _ _ _).2 ⟨by decide +kernel, test_skipCheck_refuses.2, ?_⟩
  rw [decimalCheck, show opcodesOf defaultOps .add = [AOp.add.code] by decide +kernel,
    show opcodesOf defaultOps .sub = [AOp.sub.code] by decide +kernel]
  simp [test_decimal_add, test_decimal_sub]
theorem test_construct_accepts : ∃ t, construct files ops [⟨5, 1⟩] State.reset = .ok t ∧ t.cfg.opTable = defaultOps :=
  ⟨_, (construct_eq_ok_iff _ _ _ _ _).2 ⟨_, _, _, defaultOps, test_dump_cs, test_dump_alu, test_dump_bcd,
    (OpSource.table_eq_ok_iff _ _).2 rfl, by rw [tableOf_toNat, tableOf_toNat]; exact test_tables_accepted, rfl⟩, rfl⟩
theorem test_construct_refuses_missing : refusedWith (construct { files with cs := none } ops [] State.reset) .romMissing = true := by
  decide
theorem test_construct_refuses_short :
    refusedWith (construct { files with cs := some (List.replicate 255 (line 28 0)) } ops [] State.reset) .romShort = true := by
  decide +kernel
theorem test_construct_refuses_long :
    refusedWith (construct { files with cs := some (List.replicate 257 (line 28 0)) } ops [] State.reset) .romLong = true := by
  decide +kernel
theorem test_construct_refuses_malformed :
    refusedWith (construct { files with alu := some (List.replicate 256 ['2']) } ops [] State.reset) .romMalformed = true := by
  decide +kernel
theorem test_construct_refuses_line_width :
    refusedWith (construct { files with cs := some (List.replicate 256 (line 27 0)) } ops [] State.reset) .romLineWidth = true := by
  decide +kernel
theorem test_decimalCheck_refuses : decimalCaseHolds refAlu (Vector.replicate 256 0) .add AOp.add.code 4 5 false = false := by
  decide +kernel
theorem test_construct_refuses_a_gap : refusedWith (construct files gappedOps [] State.reset) .codeUnassigned = true := by
  decide +kernel
/-- Without any opcode that is `A_ADD` (R227 (a)), the reference table is refused. -/
theorem test_additionCheck_refuses : additionCheck { defaultOps with a := defaultOps.a.set 4 .xor } refAlu = false := by decide +kernel

/-! ## Parameters (R6): a machine with another value of each -/

/-- The reset machine of `at'` under other parameters. -/
def under (f : Params → Params) (s : State) : State := { s with cfg := f s.cfg }

/-- S codes 0 and 3 exchanged: the word of V5.33 with `S_ZERO` written copies the accumulator to `T`. -/
theorem test_optable_exchanges_codes :
    stepped (under (fun c => { c with opTable := { c.opTable with s := #v[.acc, .m, .t, .zero] } }) (withA 0xBEEF (at' 0 0x00F3008)))
      (fun t => t.regs.t.word == 0xBEEF) = true := by decide
/-- `Q.IOE` at bit 15, `Q.IOOP` at bit 0 and `Q.SC5` at bit 5: set-flag for select code 5. -/
theorem test_q_layout_moves_the_fields :
    stepped (under (fun c => { c with qLayout := { scLo := 5, ioopLo := 0, hc := 14, ioe := 15, qb := 13 } })
      (withQ 0x80A0 (at' 0 0x080020C))) (fun t => t.arb.rdy && t.arb.sel == 5) = true := by decide
theorem test_q_layout_moves_the_special_case :
    stepped (under (fun c => { c with qLayout := { defaultQLayout with qb := 13 } }) (withQ 0xFFFF (at' 0 0x00010CC)))
      (fun t => t.regs.q.word == 0xDFFF) = true := by decide
/-- The selector in `P[3:0]`. -/
def qselP : Vector Qualifier 4 := #v[.reg .P 0, .reg .P 1, .reg .P 2, .reg .P 3]

/-- The word of V6.2 and V6.3 with the selector in `P[3:0]` and qualifier 2 the carry. -/
theorem test_qsel_and_qualtab :
    stepped (under (fun c => { c with qsel := qselP, qualtab := c.qualtab.set 2 .bc }) (withP 2 (withA 5 (at' 0x90 0x08F94BF))))
      (fun t => t.regs.a.word == 5) = true ∧
    stepped (under (fun c => { c with qsel := qselP, qualtab := c.qualtab.set 2 .bc })
      (withCarry (withP 2 (withA 5 (at' 0x90 0x08F94BF))))) (fun t => t.regs.a.word == 7) = true := by decide
/-- A selector of four unrelated conditions, and a condition that is a function of several bits: qualifier `{INH, DC, T[1], ¬BC}`. -/
theorem test_qsel_of_four_conditions :
    (under (fun c => { c with qsel := #v[.not .bc, .reg .T 1, .dc, .inh], qualtab := c.qualtab.set 7 (.and (.acc 2) (.or .ab .rdy)) })
      (withT 2 (withA 4 (withDecimalCarry State.reset)))).qsel = 7 ∧
    (under (fun c => { c with qualtab := c.qualtab.set 7 (.and (.acc 2) (.or .ab .rdy)) }) (withA 4 State.reset)).qual 7 = false ∧
    (under (fun c => { c with qualtab := c.qualtab.set 7 (.and (.acc 2) (.or .ab .rdy)) })
      (setArb (fun r => { r with rdy := true }) (withA 4 State.reset))).qual 7 = true := by decide
/-- The registers made with other widths (R6, R120). -/
def madeWith (w : Widths) (s : State) : State := { s with regs := Regs.made w }
/-- `W_T = 12`: the word of V5.33 leaves the top twelve bits of the serial stream in `T`. -/
theorem test_width_of_T :
    stepped (withA 0xBEEF (madeWith { defaultWidths with t := 12 } (at' 0 0x00F300B)))
      (fun t => t.regs.t.width == 12 && t.regs.t.nat == 0xBEE && t.regs.a.word == 0xBEEF) = true := by decide
/-- `W_A = 20`: the word of V5.37 adds one to the low 16 bits `FFFF` of the accumulator, whose top digit 5 moves down (R127, R237). -/
theorem test_width_of_A :
    stepped (setRegs (fun r => { r with a := r.a.load 0x5FFFF#20 }) (madeWith { defaultWidths with a := 20 } (at' 0 0x00F14BF)))
      (fun t => t.regs.a.width == 20 && t.regs.a.nat == 5 && t.bc && t.regs.b.width == 16) = true := by decide
/-- The inhibit test comes after the R-op (R193, R200): with qualifier 0 the bit `T[0]`, a read of 2 into a `T` of 1 makes no pulse. -/
theorem test_iqn_sees_the_loaded_T :
    stepped (under (fun c => { c with qualtab := c.qualtab.set 0 (.reg .T 0) })
      (withM 0x10 (withCell 0x10 2 (withT 1 (at' 0 0x000950C))))) (fun t => t.regs.t.word == 2) = true := by decide
/-- Select code 5 of the class INTERNAL: an output starts no handshake (R278). -/
theorem test_out_class :
    ran (.ioOt16 5 false) (under (fun c => { c with outClass := c.outClass.set 5 .internal }) (withA 0xABCD (withDevice 5 true 0 State.reset)))
      (fun t => t.regs.ior.word == 0xABCD && t.ext.calls == [] && !t.arb.bsy) = true := by decide
/-- A tap register (R130's example), and its rotation in place. -/
theorem test_tap_R130 :
    ({ val := 0, tap := 3, src := .core .tbus, en := true, lat := false } : TapReg 16).pulse State.reset.regs true =
      { val := 0x0008, tap := 3, src := .core .tbus, en := true, lat := true } ∧
    (((TapReg.create 3 0x0018 false : TapReg 16).shiftEnable true).pulse State.reset.regs true).val = 0x0018 := by decide

/-! ## Witnesses: states and operands that meet each statement's hypotheses -/

/-- A word of the spec, decoded. -/
abbrev e' (w : ControlWord) : Entry := decodeEntry w

/-- The reset machine with a request pending. -/
def asking : State := setArb (fun r => { r with stb := 0x0010 }) State.reset

/-- The machine held by a device at select code 3 that stays busy, in the cycle of the I/O start word (V7.16). -/
def heldState : State :=
  { State.reset with
    cyc := { Cycle.idle with ir := some (decodeEntry 0x080020C) }
    hold := some { post := .none, clf := false }
    arb := { State.reset.arb with bsy := true, sel := 3, directory := [⟨3, 1⟩] } }

/-- A machine with devices at select codes 5 and 15, the first of which answers as said. -/
def deviceState (busy : Bool) : State := withDevice 15 false 0x00F0 (withDevice 5 busy 0x1234 State.reset)

theorem test_witness_DecodeOfEncodeGivesInstruction :
    (Instr.mi (e' 0xFFFFFFF)).wf = true ∧ (Instr.mi (e' 0xFFFFFFF)).part = none ∧
    (Instr.ioOt16 31 true).wf = true ∧ (Instr.ioOt16 31 true).part = none ∧ Instr.ioAck.wf = true ∧ Instr.ioAck.part = none := by
  decide
theorem test_witness_EncodeOfDecodeGivesTheWord :
    (0x0400 : Word).getLsbD 10 = true ∧ (0xFFFF : Word).getLsbD 10 = true ∧ (0xFBFF : Word).getLsbD 10 = false := by decide
theorem test_witness_RowBitsSelectTheirOperation :
    Instr.aAdd.part.isSome = true ∧ Instr.aAdd ≠ .ioClf ∧ Instr.rE.standsIn 0x0033648 = true ∧
    Instr.rE.standsIn 0x0000600 = false ∧ Instr.rTre.standsIn 0x0000600 = true ∧ Instr.xE.part.isSome = true := by decide
theorem test_witness_SkipFlagIsComputedAtDecode :
    (e' 0x00010CC).skip = true ∧ (e' 0x000130C).skip = true ∧ (e' 0x000100D).skip = false := by decide
theorem test_witness_PresetSetsWhatItNames :
    let s := { State.reset with ext := { State.reset.ext with env := [[.host .preset], [.host (.stop true)]] } }
    s.hold = none ∧ s.ext.env = [.host .preset] :: [[.host (.stop true)]] := by decide
theorem test_witness_ConstructionRefusesDefects :
    ({ files with cs := none } : RomFiles).cs = none ∧ (List.replicate 255 (line 28 0)).length < 256 ∧
    256 < (List.replicate 257 (line 28 0)).length ∧ lineValue ['2'] = none ∧ lineValue [] = none ∧ (line 27 0).length ≠ 28 ∧
    ({ files with alu := none } : RomFiles).alu = none ∧ [line 8 0].length ≠ 256 := by decide +kernel
theorem test_witness_ConstructionRefusesDefects_built :
    (∃ t, construct files ops [⟨5, 1⟩] State.reset = .ok t ∧ t.cfg.opTable = defaultOps) ∧ defaultOps.aop 4 = .add ∧
    defaultOps.aop 5 = .sub :=
  ⟨test_construct_accepts, by decide, by decide⟩
theorem test_witness_ConstructionRefusesUnfitTables :
    none ∈ gappedOps.a.toList ∧ none ∈ ({ ops with s := ops.s.set 0 none } : OpSource).s.toList ∧
    none ∈ ({ ops with r := ops.r.set 7 none } : OpSource).r.toList ∧ none ∈ ({ ops with x := ops.x.set 5 none } : OpSource).x.toList ∧
    (defaultOps.aop 3).skipOK = true ∧ ∃ t, construct files ops [⟨5, 1⟩] State.reset = .ok t :=
  ⟨by decide +kernel, by decide +kernel, by decide +kernel, by decide +kernel, rfl, test_construct_accepts.imp fun _ h => h.1⟩
theorem test_witness_ConstructedMachineIsPreset :
    (∃ t, construct files ops [⟨5, 1⟩] State.reset = .ok t) ∧ ∃ ls, files.cs = some ls ∧ 255 < ls.length ∧ 0 < ls.length :=
  ⟨test_construct_accepts.imp fun _ h => h.1, _, rfl, by decide +kernel, by decide +kernel⟩
theorem test_witness_StepRunsTheFetchedWord :
    (at' 255 0x000100C).hold = none ∧ (at' 255 0x000100C).Quiet ∧ (at' 255 0x000100C).DefaultOps ∧
    placedWord (at' 255 0x000100C).cs (at' 255 0x000100C).csa.toNat = some 0x000100C := by decide
theorem test_witness_PlacedWordRunsNext : State.reset.Quiet ∧ State.reset.DefaultOps ∧ State.reset.DefaultWidths :=
  ⟨rfl, rfl, rfl⟩
theorem test_witness_CycleRunsTheRowsItSelects :
    (e' 0x00F02BF).wf = true ∧ (e' 0x00F02BF).rop = .ios ∧ (e' 0x00F94BF).wf = true ∧ (e' 0x00F94BF).iqn = true ∧
    (withQ 0x0405 State.reset).ioWord = some { op := .stf, sc := 5, hc := false } := by decide
theorem test_witness_both_accumulators :
    State.reset.ab = false ∧ (onB State.reset).ab = true := by decide
theorem test_witness_StorageOperationsReachOneCell :
    (withM 0xFFFF State.reset).mem.wf = true ∧
    (withM 0xFFFF State.reset).writable ((withM 0xFFFF State.reset).regs.m.nat % 32768) = true ∧
    ({ State.reset with rom := [⟨0, 0⟩] } : State).writable (State.reset.regs.m.nat % 32768) = false ∧
    (0 : Nat) ≠ (withM 0xFFFF State.reset).regs.m.nat % 32768 := by decide
theorem test_witness_IoStartDispatchesTheQualifierRegister :
    State.reset.qIoe = false ∧ State.reset.serviceRequested = false ∧
    asking.qIoe = false ∧ asking.serviceRequested = true ∧
    (withQ 0x06C5 (deviceState false)).qIoe = true ∧ (withQ 0x06C5 (deviceState false)).Quiet ∧
    (withQ 0x06C5 (deviceState false)).hold = none ∧
    (withQ 0x06C5 (deviceState false)).answersBusy (withQ 0x06C5 (deviceState false)).qSc = false ∧
    (withQ 0x06C5 (deviceState false)).holdClear = true ∧
    (withQ 0x06C5 (deviceState false)).qIoop = 6 := by decide
theorem test_witness_AOpsEvaluateTheReferenceTable :
    State.reset.cfg.aluTable = refAlu ∧ State.reset.rbit = false ∧ State.reset.sbit = false ∧ State.reset.cyc.cw = false ∧
    (Instr.aXor, false ^^ false) ∈ [(Instr.aZero, false), (.aAnd, false && false), (.aIor, false || false), (.aXor, false ^^ false)] :=
  ⟨rfl, rfl, rfl, rfl, by decide⟩
theorem test_witness_QualifierFlagsTestTheSelectedCondition :
    State.reset.Quiet ∧ (withA 1 State.reset).qual (withA 1 State.reset).qsel = true ∧ State.reset.qual State.reset.qsel = false ∧
    State.reset.DefaultTests ∧ (at' 0 0).Quiet ∧ (at' 0 0).qual (at' 0 0).qsel = false := by decide
theorem test_witness_SerialTransferMovesLowBitsFirst :
    let r : BitReg := { width := 16, val := 0x12B5, src := .reg .A, en := true, lat := false }
    let e : BitReg := { width := 4, val := 0xB, src := .reg .E, en := true, lat := false }
    r.width = r.width ∧ r.en = true ∧ 16 ≤ r.width ∧ 0 ≤ r.width ∧ e.width = e.width ∧ e.en = true ∧ 4 ≤ e.width := by decide
theorem test_witness_CrossWiredRegistersExchange :
    let r : BitReg := { width := 16, val := 0x12B5, src := .reg .B, en := true, lat := false }
    let e : BitReg := { width := 1, val := 1, src := .reg .E, en := true, lat := false }
    r.width = 15 + 1 ∧ r.en = true ∧ e.width = 0 + 1 ∧ e.en = true := by decide
theorem test_witness_PulseOfTheRegisterFileIsTwoPhase :
    let r := { Regs.reset with
      a := { width := 16, val := 0x8001, src := .reg .B, en := true, lat := false }
      b := { width := 16, val := 2, src := .reg .A, en := true, lat := false }
      ior := { width := 16, val := 0x12B5, src := .tbus, en := true, lat := false }, iorByte := true }
    r.a.src = .reg .B ∧ r.b.src = .reg .A ∧ r.a.en = true ∧ r.b.en = true ∧ (r.binding .IOR).2 = true ∧ (r.binding .M).2 = false := by
  decide
theorem test_witness_SpecializedRegistersShiftTheirPart :
    ({ val := 1, tap := 15, src := .core .tbus, en := true, lat := true } : TapReg 16).en = true ∧
    ({ val := 1, tap := 0, src := .self, en := false, lat := true } : TapReg 16).en = false ∧
    ({ val := 1, tap := 0, src := .self, en := true, lat := true } : TapReg 16).src = .self ∧
    ({ width := 8, val := 0xB5, src := .reg .IOR, en := true, lat := false } : BitReg).en = true ∧
    8 ≤ ({ width := 8, val := 0xB5, src := .reg .IOR, en := true, lat := false } : BitReg).width := by decide
theorem test_witness_ControlWordCompletes :
    State.reset.hold = none ∧ (e' 0x08F1CBF).rop ≠ .ios ∧ (e' 0x08F1CBF).brq = true ∧ (e' 0x08F14BF).rop ≠ .ios ∧
    (e' 0x08F14BF).brq = false ∧ (e' 0x080020C).rop = .ios ∧ (withQ 0x04C5 (deviceState false)).hold = none ∧
    (withQ 0x04C5 (deviceState false)).Quiet ∧
    (withQ 0x04C5 (deviceState false)).answersBusy (withQ 0x04C5 (deviceState false)).qSc = false := by
  decide
theorem test_witness_HoldConditionMakesNoPulse :
    let s := withQ 0x0605 (deviceState false)
    s.AtRest ∧ s.Quiet ∧ s.answersBusy s.qSc = false ∧ (e' 0x00F02BF).rop = .ios ∧
    s.holdClear = true ∧ (e' 0x00F02BF).xop ≠ .qb ∧ (e' 0x00F02BF).xop ≠ .dec ∧ s.qIoe = true ∧
    s.qIoop ≠ 1 ∧ s.qIoop ≠ 4 ∧ s.qIoop ≠ 5 ∧ s.qIoop ≠ 6 ∧ s.qIoop ≠ 7 ∧ s.qIoop ≠ 8 ∧ s.cfg.carryCommit = .working := by decide
theorem test_witness_HoldConditionMakesNoPulse_skips :
    [(0x0625, 1), (0x0685, 4)].all (fun (q, op) =>
      let s := withQ q (deviceState false)
      decide s.AtRest && decide s.Quiet && !s.answersBusy s.qSc && s.holdClear && s.qIoe && s.qIoop == op &&
        s.addressed s.qSc != []) = true ∧
    (withQ 0x0627 (deviceState false)).addressed (withQ 0x0627 (deviceState false)).qSc = [] ∧
    (withQ 0x0200 State.reset).qIoe = false ∧ (withQ 0x0200 State.reset).holdClear = true ∧
    (withQ 0x0200 State.reset).serviceRequested = false := by decide
theorem test_witness_BranchTestSeesRegistersAfterThePulses :
    (at' 0x90 0).AtRest ∧ (at' 0x90 0).Quiet ∧ (at' 0x90 0).DefaultWidths ∧ (e' 0x08F1CBF).wf = true ∧ (e' 0x08F1CBF).rop ≠ .ios ∧
      (e' 0x08F1CBF).brq = true ∧
    (at' 0x90 0).csa.extractLsb' 4 4 = 9 ∧ (at' 0xAF 0).csa.extractLsb' 4 4 = 10 ∧ (at' 0x70 0).csa.extractLsb' 4 4 = 7 ∧
    (at' 0x90 0).DefaultTests ∧ (at' 0x90 0).DefaultFields ∧
    (e' 0x00019CC).xop = .qb ∧ (e' 0x00019CC).rop = .q ∧ (e' 0x00019CC).brq = true ∧ (e' 0x00019CC).wf = true := by decide
/-- The I/O start with a branch request: IO_SFC, IO_SFS, an operation without a handshake at a device that would stay busy, an output of the
class INTERNAL, an output to a device that does not stay busy, and the acknowledge. -/
theorem test_witness_BranchTestSeesRegistersAfterThePulses_io :
    (e' 0x0800A0C).wf = true ∧ (e' 0x0800A0C).rop = .ios ∧ (e' 0x0800A0C).brq = true ∧
    [(0x0425, true), (0x0485, true), (0x0405, true), (0x0500, true), (0x0505, false), (0x0000, true)].all (fun (q, busy) =>
      let s := withDevice 5 busy 0 (withQ q (at' 0x90 0))
      decide s.AtRest && decide s.Quiet && decide s.DefaultTests && decide s.DefaultFields && decide s.DefaultWidths &&
        decide s.StartsUnheld) = true ∧
    (withDevice 5 true 0 (withQ 0x0505 (at' 0x90 0))).answersBusy 5 = true := by decide
theorem test_witness_ControlWordFrame :
    State.reset.AtRest ∧ State.reset.Quiet ∧ State.reset.ReferenceAlu ∧ (e' 0x000100C).rop = .zero ∧ (e' 0x000100C).xop = .none ∧
    (e' 0x000100C).sop = .zero ∧ (e' 0x000100C).ttt = false ∧ (e' 0x000100C).ttm = false ∧ (e' 0x000100C).aop = .zero ∧
      (e' 0x000100C).wf = true ∧
    (e' 0x000100C).brq = false ∧ (e' 0x003117F).xop = .dec ∧ (e' 0x003117F).rop ≠ .ios ∧ (onB State.reset).AtRest :=
  ⟨by decide, rfl, ⟨rfl, rfl⟩, by decide +kernel⟩
theorem test_witness_SerialSumOfTheLowBits :
    State.reset.AtRest ∧ State.reset.ReferenceAlu ∧ State.reset.DefaultWidths ∧ State.reset.loopRuns (e' 0x00F11BF) ∧
    [0x00F11BF, 0x00011BF, 0x00F51BF, 0x00F11B3].all (fun w => (e' w).wf && (e' w).sop == .acc && (e' w).rop == .q &&
      (e' w).xop == .acc && ((e' w).aop == .add || (e' w).aop == .sub) && !(e' w).iqn) = true ∧
    (e' 0x00F11BF).sc.toNat + 1 = 16 ∧ (e' 0x00011BF).sc.toNat + 1 = 1 ∧ (e' 0x00F11B3).ttt = true ∧ (e' 0x00F11B3).ttm = true :=
  ⟨by decide, ⟨rfl, rfl⟩, rfl, by decide +kernel⟩
theorem test_witness_SerialLogicOfTheLowBits :
    State.reset.AtRest ∧ State.reset.ReferenceAlu ∧ State.reset.DefaultWidths ∧ State.reset.loopRuns (e' 0x00F31AF) ∧
    [0x00F11AF, 0x00F51AF, 0x00F31AF, 0x00F71AF, 0x00F31BF, 0x00F71BF, 0x00031A3].all (fun w => (e' w).wf && (e' w).sop == .acc &&
      (e' w).rop == .q && (e' w).xop == .acc && (e' w).aop != .add && (e' w).aop != .sub && !(e' w).iqn) = true ∧
    (e' 0x00031A3).ttt = true ∧ (e' 0x00031A3).ttm = true :=
  ⟨by decide, ⟨rfl, rfl⟩, rfl, by decide +kernel⟩
theorem test_witness_MoveThroughOneBus :
    State.reset.AtRest ∧ State.reset.ReferenceAlu ∧ State.reset.DefaultWidths ∧ State.reset.loopRuns (e' 0x00F31AC) ∧
    [0x00F3204, 0x00F31AC, 0x00F370B, 0x00F30AE, 0x00F308D, 0x00F3003, 0x00F302D, 0x00F304F, 0x00F30EB].all (fun w =>
      (e' w).wf && (e' w).aop == .ior && (e' w).sc == 15 && (e' w).xop != .dec && !(e' w).iqn) = true ∧
    (e' 0x00F3204).sop = .zero ∧ (e' 0x00F3204).rop = .p ∧ (e' 0x00F3204).ttm = true ∧ (e' 0x00F31AC).rop = .q ∧
    (e' 0x00F31AC).xop = .acc ∧ (e' 0x00F30AE).sop = .m ∧ (e' 0x00F308D).sop = .t ∧ (e' 0x00F308D).xop = .p ∧
    (e' 0x00F3003).sop = .acc ∧ (e' 0x00F3003).rop = .zero ∧ (e' 0x00F3003).ttt = true ∧ (e' 0x00F302D).xop = .q ∧
    (e' 0x00F304F).xop = .e ∧ (e' 0x00F370C).rop = .acc ∧ (e' 0x00F370C).sop = .zero ∧ (e' 0x00F370C).wf = true :=
  ⟨by decide, ⟨rfl, rfl⟩, rfl, by decide +kernel⟩
theorem test_witness_UnitConstantIncrements :
    State.reset.AtRest ∧ State.reset.ReferenceAlu ∧ State.reset.DefaultWidths ∧
    [0x00F1416, 0x00F1419, 0x00F14BF, 0x00F04BF, 0x00F129C].all (fun w =>
      (e' w).wf && (e' w).aop == .add && (e' w).sc == 15 && !(e' w).iqn) = true ∧
    (e' 0x00F1416).rop = .unit ∧ (e' 0x00F1416).sop = .m ∧ (e' 0x00F1416).ttm = true ∧ (e' 0x00F1416).xop = .none ∧
    (e' 0x00F1419).rop = .unit ∧ (e' 0x00F1419).sop = .t ∧ (e' 0x00F1419).ttt = true ∧ (e' 0x00F1419).xop = .none ∧
    (e' 0x00F04BF).rop = .unitx ∧ (e' 0x00F04BF).sop = .acc ∧ (e' 0x00F04BF).xop = .acc ∧
    (e' 0x00F129C).sop = .zero ∧ (e' 0x00F129C).rop = .p ∧ (e' 0x00F129C).xop = .p :=
  ⟨by decide, ⟨rfl, rfl⟩, rfl, by decide +kernel⟩
theorem test_witness_TransferThroughEShiftsOneDigit :
    State.reset.AtRest ∧ State.reset.ReferenceAlu ∧ State.reset.DefaultWidths ∧
    [0x00F3608, 0x00F36AC, 0x00F3604].all (fun w => (e' w).wf && (e' w).sop == .zero &&
      (e' w).rop == .tre && (e' w).aop == .ior && (e' w).sc == 15 && (e' w).xop != .dec && !(e' w).iqn) = true ∧
    (e' 0x00F3608).ttt = true ∧ (e' 0x00F36AC).xop = .acc ∧ (e' 0x00F36AC).ttt = false ∧ (e' 0x00F3604).ttm = true :=
  ⟨by decide, ⟨rfl, rfl⟩, rfl, by decide +kernel⟩
theorem test_witness_DigitsMoveInAndOutOfE :
    State.reset.AtRest ∧ State.reset.ReferenceAlu ∧ State.reset.DefaultWidths ∧ State.reset.loopRuns (e' 0x0033648) ∧
      (e' 0x0033648).wf = true ∧
    (e' 0x0033648).aop = .ior ∧ (e' 0x0033648).sc = 3 ∧ (e' 0x0033648).sop = .zero ∧ (e' 0x0033648).rop = .e ∧
    (e' 0x0033648).ttt = true ∧ State.reset.loopRuns (e' 0x003304F) ∧ (e' 0x003304F).wf = true ∧ (e' 0x003304F).aop = .ior ∧
    (e' 0x003304F).sc = 3 ∧ (e' 0x003304F).sop = .acc ∧ (e' 0x003304F).rop = .zero ∧ (e' 0x003304F).xop = .e :=
  ⟨by decide, ⟨rfl, rfl⟩, rfl, by decide +kernel⟩
theorem test_witness_StorageThroughTheCycle :
    State.reset.AtRest ∧ State.reset.mem.wf = true ∧ State.reset.DefaultWidths ∧ State.reset.loopRuns (e' 0x000150C) ∧
    (e' 0x000150C).rop = .rdm ∧
    (e' 0x000150C).ttt = false ∧ (e' 0x000150C).skip = false ∧ (e' 0x000130C).rop = .wtm ∧
    (withM 0xFFFF State.reset).writable 32767 = true ∧ (withM 0xFFFF State.reset).AtRest := by decide
theorem test_witness_SpecialCaseWritesOneQualifierBit :
    State.reset.AtRest ∧ State.reset.ReferenceAlu ∧ (e' 0x00030CF).wf = true ∧ (e' 0x00010CC).wf = true ∧
    (e' 0x01010EC).wf = true ∧ (e' 0x00030CF).xop = .qb ∧ (e' 0x00030CF).rop = .zero ∧
    (e' 0x00030CF).sop = .acc ∧ (e' 0x00030CF).aop = .ior ∧ (e' 0x00010CC).xop = .qb ∧ (e' 0x00010CC).rop = .zero ∧
    (e' 0x00010CC).aop = .zero ∧ (e' 0x01010EC).xop = .cab ∧ (e' 0x01010EC).rop ≠ .ios :=
  ⟨by decide, ⟨rfl, rfl⟩, by decide +kernel⟩
theorem test_witness_InhibitedLoopMovesNoRegister :
    (at' 0x90 0).AtRest ∧ (at' 0x90 0).ReferenceAlu ∧ (at' 0x90 0).Quiet ∧ (e' 0x08F94BF).iqn = true ∧
    (at' 0x90 0).qual (at' 0x90 0).qsel = false ∧ (e' 0x08F94BF).rop ≠ .ios ∧ (e' 0x08F94BF).rop ≠ .rdm ∧
    (e' 0x08F94BF).xop ≠ .qb ∧ (e' 0x08F94BF).xop ≠ .dec ∧ (e' 0x08F94BF).xop ≠ .cab :=
  ⟨by decide, ⟨rfl, rfl⟩, by decide +kernel⟩
theorem test_witness_ShiftSkipIsInvisible :
    State.reset.AtRest ∧ State.reset.cfg.aluTable = refAlu ∧ (e' 0x00010CC).wf = true ∧ (e' 0x00010CC).skip = true :=
  ⟨by decide, rfl, by decide, by decide⟩
theorem test_witness_RunsWithoutShiftSkipAgree :
    State.reset.Inv ∧ heldState.Inv ∧ skipCheck State.reset.cfg.opTable State.reset.cfg.aluTable = true ∧
    skipCheck heldState.cfg.opTable heldState.cfg.aluTable = true :=
  ⟨by decide, by decide, test_skipCheck_refuses.2, test_skipCheck_refuses.2⟩
theorem test_witness_DecimalLawHoldsThroughTheEngine :
    let s := withDecimalCarry (withA 9 (withQ 9 State.reset))
    s.AtRest ∧ s.ReferenceAlu ∧ s.cfg.bcdTable = refBcd ∧ s.DefaultWidths ∧ s.loopRuns (e' 0x003117F) ∧
    [0x003117F, 0x003517F].all (fun w => (e' w).wf && (e' w).sop == .acc && (e' w).rop == .q && (e' w).xop == .dec &&
      ((e' w).aop == .add || (e' w).aop == .sub) && (e' w).sc == 3 && !(e' w).iqn) = true ∧
    9 = s.acc.nat % 16 ∧ 9 = s.regs.q.nat % 16 ∧ 19 = decimalSum (e' 0x003117F).aop 9 9 s.dc :=
  ⟨by decide, ⟨rfl, rfl⟩, rfl, rfl, by decide +kernel⟩
theorem test_witness_UnitSourceKeepsTheAccumulator :
    State.reset.AtRest ∧ State.reset.ReferenceAlu ∧ State.reset.cfg.bcdTable = refBcd ∧ (e' 0x003147C).wf = true ∧
    (e' 0x003147C).sop = .zero ∧ (e' 0x003147C).rop = .unit ∧ (e' 0x003147C).xop = .dec ∧ (e' 0x003147C).aop = .add ∧
    (e' 0x003147C).sc = 3 ∧ State.reset.loopRuns (e' 0x003147C) ∧ (e' 0x003047C).rop = .unitx ∧ (e' 0x003047C).wf = true :=
  ⟨by decide, ⟨rfl, rfl⟩, rfl, by decide +kernel⟩
theorem test_witness_AcknowledgeTouchesNothingElse :
    State.reset.serviceRequested = false ∧ asking.serviceRequested = true ∧ asking.cfg.exposeStrobes = true ∧
    ({ asking with cfg := { defaultParams with exposeStrobes := false } } : State).serviceRequested = true := by decide
theorem test_witness_SkipOperationsReportInTheCarry :
    lookupDevices (deviceState false).arb.directory 5 ≠ [] ∧ lookupDevices (deviceState false).arb.directory 0 = [] ∧
    lookupDevices (deviceState false).arb.directory 7 = [] := by decide
theorem test_witness_LookupKeepsRegistrationOrder :
    (⟨5, 1⟩ : DirEntry) ∈ lookupDevices [⟨5, 1⟩, ⟨15, 1⟩, ⟨5, 2⟩] 5 ∧ (⟨5, 2⟩ : DirEntry) ∈ lookupDevices [⟨5, 1⟩, ⟨15, 1⟩, ⟨5, 2⟩] 5 := by
  decide
theorem test_witness_handshakes :
    (deviceState false).DefaultWidths ∧ (deviceState false).Quiet ∧ (deviceState false).hold = none ∧
      (deviceState false).answersBusy 5 = false ∧
    (deviceState true).Quiet ∧ (deviceState true).hold = none ∧ (deviceState true).answersBusy 5 = true ∧
    (deviceState false).answersBusy 0 = false ∧ (deviceState false).answersBusy 31 = false ∧
    0x1234 = (deviceState false).inputWord 5 ∧ 0 = (deviceState false).inputWord 7 ∧
    outClass (deviceState false).cfg ((31 : BitVec 5).setWidth 4) = .auxbuf ∧
    outClass (deviceState false).cfg ((16 : BitVec 5).setWidth 4) = .internal := by decide
/-- The held machine as its device completes, with a load to finish and a branch on qualifier `n`. -/
def resuming (post : HoldPost) (byte : Bool) (n : BitVec 4) : State :=
  { heldState with
    csa := n ++ 0#4, hold := some { post := post, clf := true }, regs := { heldState.regs with iorByte := byte }
    cyc := { heldState.cyc with ir := some (e' 0x0800A0C) }
    ext := { heldState.ext with env := [[.periph ⟨3, 1⟩ .complete]] } }
theorem test_witness_HeldEngineWaitsForBusy :
    heldState.hold = some { post := .none, clf := false } ∧ (interleave false heldState).arb.bsy = true ∧ heldState.Stuck ∧
    (interleave false { heldState with ext := { heldState.ext with env := [[.periph ⟨3, 1⟩ .complete]] } }).arb.bsy = false ∧
    heldState.cyc.ir = some (e' 0x080020C) ∧ (e' 0x080020C).brq = false := by decide
theorem test_witness_HeldEngineWaitsForBusy_resumed :
    [(HoldPost.none, false, 9), (.load16, false, 7), (.load8, true, 10)].all (fun (p, byte, n) =>
      let s := resuming p byte n
      s.hold == some { post := p, clf := true } && !(interleave false s).arb.bsy && decide (interleave false s).Quiet &&
      decide s.HeldPlainly && s.regs.iorByte == byte && s.csa.extractLsb' 4 4 == n) = true ∧
    (resuming .load8 true 9).cyc.ir = some (e' 0x0800A0C) ∧ (e' 0x0800A0C).brq = true ∧ (e' 0x0800A0C).xop = .none ∧
    (resuming .load8 true 9).DefaultWidths ∧ (resuming .load16 false 9).DefaultWidths ∧ (resuming .load8 true 9).DefaultTests ∧
      (resuming .load8 true 9).DefaultFields := by decide
theorem test_witness_PeripheralsWriteTheirFieldsOnly :
    (⟨3, 1⟩ : DirEntry) ∈ heldState.arb.directory ∧ (⟨4, 1⟩ : DirEntry) ∉ heldState.arb.directory ∧ heldState.arb.bsy = true ∧
    heldState.arb.sel = (⟨3, 1⟩ : DirEntry).code ∧ (⟨5, 1⟩ : DirEntry) ∈ (deviceState false).arb.directory ∧
    (deviceState false).arb.bsy = false ∧ (deviceState false).arb.sel ≠ (⟨5, 1⟩ : DirEntry).code := by decide
theorem test_witness_EngineNeverWritesStrobes : ∃ t, State.reset.Quiet ∧ exec (.ioEow 5 true) State.reset = .next t :=
  ⟨_, by decide, rfl⟩
theorem test_witness_ServiceRequestStateMachine :
    (∃ t, asking.hold = none ∧ exec (.mi (e' 0x000100C)) asking = .next t) ∧
    (∃ t, asking.hold = none ∧ exec (.mi (e' 0x080020C)) asking = .next t) ∧ (e' 0x000100C).rop ≠ .ios ∧
    (e' 0x080020C).rop = .ios ∧ asking.qIoe = false ∧ asking.serviceRequested = true ∧
    State.reset.serviceRequested = false ∧ State.reset.hold = none ∧ (withQ 0x0525 asking).qIoe = true :=
  ⟨⟨_, rfl, rfl⟩, ⟨_, rfl, rfl⟩, by decide, by decide, by decide, by decide, by decide, by decide, by decide⟩
theorem test_witness_EveryStepKeepsTheInvariant :
    ∃ t, (at' 0x42 0x000100C).Inv ∧ step (at' 0x42 0x000100C) = .next t := ⟨_, by decide, rfl⟩
theorem test_witness_StepKeepsConfigurationAndOtherCells :
    ∃ t, step (at' 0x42 0x000130C) = .next t ∧
      ({ at' 0x42 0x000130C with rom := [⟨0, 0⟩] } : State).writable 0 = false ∧ 1 ≠ (at' 0x42 0x000130C).regs.m.nat % 32768 :=
  ⟨_, rfl, by decide, by decide⟩

end Sys2Proof.Tests
end

section
/-! SUPPORT. Proofs of the family of spec/10_state.md: what the reset state is (R60), the invariant of the machine (R30, R31, R73,
R212, R275, R280), and the configuration and cells no step changes (R34, R35, R73, R82, R120). -/

namespace Sys2Proof.Machine

/-! ### The reset state -/

/-- Settles O6: each value is read off the reset state. -/
theorem resetLeavesThePresetValues : Obligations.ResetLeavesThePresetValues := by
  unfold Obligations.ResetLeavesThePresetValues
  exact ⟨rfl, rfl, rfl, rfl, rfl, rfl, rfl, rfl, rfl,
    ⟨⟨rfl, rfl⟩, ⟨rfl, rfl⟩, ⟨rfl, rfl⟩, ⟨rfl, rfl⟩, ⟨rfl, rfl⟩, ⟨rfl, rfl⟩, ⟨rfl, rfl⟩, ⟨rfl, rfl⟩, ⟨rfl, rfl⟩⟩, rfl⟩

/-- Settles O58: the registers and buses are those of O6; no cycle is in progress, no handshake and no acknowledged request. -/
theorem resetMeetsTheInvariant : Obligations.ResetMeetsTheInvariant := by
  unfold Obligations.ResetMeetsTheInvariant
  obtain ⟨-, -, -, -, -, -, -, -, -, hoff, hbus⟩ := resetLeavesThePresetValues
  refine ⟨State.reset_mem_wf, rfl, fun h => ?_, fun _ => ⟨hoff, hbus, rfl⟩, fun h => ?_⟩
  · exact absurd h (by decide)
  · exact absurd h (by decide)

/-! ### The word in progress stays in progress (R191) -/

@[simp] theorem transferPass_ir (g : RegName → Bool) (s : State) : (transferPass g s).cyc.ir = s.cyc.ir := by
  unfold transferPass; cases h : s.cyc.ir <;> simp [h, aluExec]
@[simp] theorem transferPasses_ir (g : RegName → Bool) (n : Nat) (s : State) : (transferPasses g n s).cyc.ir = s.cyc.ir := by
  induction n generalizing s with
  | zero => rfl
  | succ n ih => rw [transferPasses, ih, transferPass_ir]
@[simp] theorem transfer_ir (n : Nat) (dir : Dir) (aux : Bool) (s : State) : (transfer n dir aux s).cyc.ir = s.cyc.ir := by
  simp [transfer]
@[simp] theorem latchAndShift_ir (n : Nat) (s : State) : (latchAndShift n s).cyc.ir = s.cyc.ir := by
  simp [latchAndShift]
@[simp] theorem transferOut_ir (n : Nat) (s : State) : (transferOut n s).cyc.ir = s.cyc.ir := by
  simp [transferOut]
@[simp] theorem ioFinish_ir (h : Hold) (s : State) : (ioFinish h s).cyc.ir = s.cyc.ir := by
  unfold ioFinish; cases h.post <;> simp
@[simp] theorem handshake_ir (dir : Dir) (h : Hold) (s : State) : (handshake dir h s).cyc.ir = s.cyc.ir := by
  unfold handshake; dsimp only; split <;> simp
@[simp] theorem offer_ir (v : Word) (hc : Bool) (s : State) : (offer v hc s).cyc.ir = s.cyc.ir := by
  unfold offer; dsimp only; split <;> simp
@[simp] theorem dispatchIo_ir (i : IoWord) (s : State) : (dispatchIo i s).cyc.ir = s.cyc.ir := by
  unfold dispatchIo; cases i.op <;> simp [runIoStf, runIoSfc, runIoStc, runIoClc, runIoSfs, runIoLi8, runIoLi16, runIoOt8, runIoOt16,
    runIoEow, runIoNopLow, runIoNopHigh]
@[simp] theorem arbiterExec_ir (s : State) : (arbiterExec s).cyc.ir = s.cyc.ir := by
  unfold arbiterExec runIoAck
  cases s.ioWord with
  | some i => exact dispatchIo_ir i s
  | none => dsimp only; split <;> rfl
@[simp] theorem runR_ir (op : ROp) (s : State) : (runR op s).cyc.ir = s.cyc.ir := by
  cases op <;> simp [runR, runRZero, runRUnit, runRUnitx, runRP, runRIos, runRTre, runRE, runRQ, runRRdm, runRWtm, runRAcc, driveUnit]
/-- Whether or not the engine is held after step 3, the cycle's word is the one it began with (R191, R275). -/
@[simp] theorem cycleFront_ir (e : Entry) (s : State) : (cycleFront e s).cyc.ir = some e := by
  simp [cycleFront, beginCycle]

/-! ### The arbiter's latches through a cycle -/

/-- `SSF` and `INH` stay and `BSY` is not raised: what every part of a cycle but the I/O start does to the arbiter, whatever the other
agents do meanwhile (R276, R280). -/
structure KeepsLatches (s t : State) : Prop where
  ssf : t.arb.ssf = s.arb.ssf
  inh : t.arb.inh = s.arb.inh
  bsy : t.arb.bsy = true → s.arb.bsy = true

theorem KeepsLatches.of_arb {s t : State} (h : t.arb = s.arb) : KeepsLatches s t :=
  ⟨by rw [h], by rw [h], by rw [h]; exact id⟩

theorem KeepsLatches.trans {s t u : State} (h : KeepsLatches s t) (k : KeepsLatches t u) : KeepsLatches s u :=
  ⟨k.ssf.trans h.ssf, k.inh.trans h.inh, fun hu => h.bsy (k.bsy hu)⟩

theorem interleave_keepsLatches (s : State) : KeepsLatches s (interleave false s) :=
  have ⟨hssf, hinh, _, _, hbsy⟩ := interleave_latches s
  ⟨hssf, hinh, hbsy⟩

theorem sampleQual_keepsLatches (s : State) : KeepsLatches s (sampleQual s) := by
  unfold sampleQual
  split
  · exact interleave_keepsLatches s
  · exact .of_arb rfl

theorem runBrq_keepsLatches (s : State) : KeepsLatches s (runBrq s) :=
  (sampleQual_keepsLatches s).trans (.of_arb rfl)

theorem runIqn_keepsLatches (s : State) : KeepsLatches s (runIqn s) := by
  refine (sampleQual_keepsLatches s).trans (.of_arb ?_)
  unfold runIqn; dsimp only; split <;> rfl

theorem tripCount_keepsLatches (e : Entry) (s : State) : KeepsLatches s (tripCount e s) := by
  unfold tripCount; dsimp only
  split
  · refine KeepsLatches.trans (.of_arb ?_) (runIqn_keepsLatches _)
    rfl
  · exact .of_arb rfl

theorem terminate_keepsLatches (e : Entry) (s : State) : KeepsLatches s (terminate e s) := by
  unfold terminate; dsimp only
  split
  · exact (runBrq_keepsLatches s).trans (.of_arb (by simp))
  · exact .of_arb (by simp)

theorem shiftLoop_keepsLatches (e : Entry) (n : Nat) (s : State) : KeepsLatches s (shiftLoop e n s) := by
  obtain ⟨u, hu, hloop⟩ := shiftLoop_inv (e := e) (KeepsLatches s)
    (fun u hu => hu.trans (.of_arb (by simp))) n (KeepsLatches.of_arb (s := s) rfl)
  rw [hloop]
  exact hu.trans (KeepsLatches.trans (.of_arb (by simp)) (terminate_keepsLatches e _))

/-- Steps 4 to 12: nothing acknowledges, nothing ends a service, nothing starts a handshake. -/
theorem cycleBack_keepsLatches (e : Entry) (s : State) : KeepsLatches s (cycleBack e s) := by
  have hsetup : KeepsLatches s (runX e.xop (armTargets e s)) := .of_arb (by simp)
  have htrip := hsetup.trans (tripCount_keepsLatches e _)
  have hinit := htrip.trans (.of_arb (aluInit_arb _))
  have hloop := hinit.trans (shiftLoop_keepsLatches e (tripCount e (runX e.xop (armTargets e s))).cyc.trip _)
  exact hloop.trans (.of_arb (by simp [cycleBack, runLoop]))

/-! ### `BSY` and the hold -/

/-- The part of the invariant that speaks of the arbiter: `BSY` is up exactly while the engine is held (R275), and an acknowledged
request inhibits (R280). -/
structure State.ArbiterAgrees (s : State) : Prop where
  busy : s.arb.bsy = s.hold.isSome
  inhibits : s.arb.ssf = true → s.arb.inh = true

theorem State.ArbiterAgrees.bsy_down {s : State} (h : s.ArbiterAgrees) (hs : s.hold = none) : s.arb.bsy = false := by
  rw [h.busy, hs]; rfl

/-- An engine that is not held and stays so agrees again after whatever keeps the latches. -/
theorem KeepsLatches.agrees {s t : State} (k : KeepsLatches s t) (hbsy : s.arb.bsy = false)
    (hinh : s.arb.ssf = true → s.arb.inh = true) (ht : t.hold = none) : t.ArbiterAgrees where
  busy := by
    have : t.arb.bsy ≠ true := fun h => Bool.false_ne_true (hbsy.symm.trans (k.bsy h))
    simp [ht, this]
  inhibits h := k.inh.trans (hinh (k.ssf.symm.trans h))

/-- The handshake writes `BSY` alone in the arbiter (R275). -/
theorem setCEO_arb (dir : Dir) (s : State) : (setCEO dir s).arb = { s.arb with bsy := (setCEO dir s).arb.bsy } := by
  by_cases h : lookupDevices s.arb.directory s.arb.sel = []
  · rw [setCEO_absent h]; simp
  · cases dir
    · rw [setCEO_in h]
    · rw [setCEO_out h]

theorem ioFinish_keepsLatches (h : Hold) (s : State) : KeepsLatches s (ioFinish h s) := by
  unfold ioFinish
  cases h.post <;> exact ⟨by simp, by simp, by simp⟩

/-- After `setCEO` the engine is held exactly where `BSY` stays up (R275). -/
theorem handshake_agrees (dir : Dir) (h : Hold) {s : State} (hs : s.hold = none) (hinh : s.arb.ssf = true → s.arb.inh = true) :
    (handshake dir h s).ArbiterAgrees := by
  have hceo : (setCEO dir s).arb.ssf = true → (setCEO dir s).arb.inh = true := by rw [setCEO_arb]; exact hinh
  unfold handshake; dsimp only
  split
  · next hbsy => exact ⟨hbsy, hceo⟩
  · next hbsy => exact (ioFinish_keepsLatches h _).agrees (Bool.eq_false_iff.2 hbsy) hceo (by simp [hs])

theorem offer_agrees (v : Word) (hc : Bool) {s : State} (hs : s.hold = none) (hbsy : s.arb.bsy = false)
    (hinh : s.arb.ssf = true → s.arb.inh = true) : (offer v hc s).ArbiterAgrees := by
  unfold offer; dsimp only
  split
  · exact ⟨by simp [hs, hbsy], by simpa using hinh⟩
  · exact handshake_agrees _ _ hs hinh
  · exact handshake_agrees _ _ hs hinh

/-- The entry block of a dispatched operation leaves the acknowledged state (R259, R309). -/
@[simp] theorem ioBegin_ssf (sc : BitVec 5) (s : State) : (ioBegin sc s).arb.ssf = false :=
  (interleave_keepsLatches (leaveAcknowledged sc s)).ssf

theorem ioBegin_bsy {s : State} (h : s.arb.bsy = false) (sc : BitVec 5) : (ioBegin sc s).arb.bsy = false :=
  Bool.eq_false_iff.2 fun hb =>
    Bool.false_ne_true (h.symm.trans ((interleave_keepsLatches (leaveAcknowledged sc s)).bsy hb))

/-- A dispatched operation: the ones with a handshake hold the engine exactly where it stays busy, the others do not raise `BSY`; none
leaves a request acknowledged (R259, R261, R275). -/
theorem dispatchIo_agrees (i : IoWord) {s : State} (hs : s.hold = none) (hbsy : s.arb.bsy = false) :
    (dispatchIo i s).ArbiterAgrees := by
  have hbegin := ioBegin_bsy hbsy i.sc
  unfold dispatchIo
  cases i.op with
  | stc => exact handshake_agrees _ _ (by simp [hs]) (by simp)
  | li8 | li16 => exact handshake_agrees _ _ (by simp [hs]) (by simp)
  | ot8 | ot16 => exact offer_agrees _ _ (by simp [hs]) (by simp [hbegin]) (by simp)
  | stf | sfc | clc | sfs | eow | nopLow c | nopHigh c =>
    constructor <;>
      simp [runIoStf, runIoSfc, runIoClc, runIoSfs, runIoEow, runIoNopLow, runIoNopHigh, endService, hs, hbegin]

/-- The I/O start dispatches an operation, acknowledges a request (which sets `INH` with `SSF`, R257), or does nothing. -/
theorem arbiterExec_agrees {s : State} (h : s.ArbiterAgrees) (hs : s.hold = none) : (arbiterExec s).ArbiterAgrees := by
  unfold arbiterExec runIoAck
  cases s.ioWord with
  | some i => exact dispatchIo_agrees i hs (h.bsy_down hs)
  | none =>
    dsimp only
    split
    · exact ⟨h.busy, fun _ => rfl⟩
    · exact h

/-- Steps 1 to 3: only the I/O start reaches the arbiter and the hold. -/
theorem cycleFront_agrees (e : Entry) {s : State} (h : s.ArbiterAgrees) (hs : s.hold = none) : (cycleFront e s).ArbiterAgrees := by
  have hpre : (runS e.sop (preload e (beginCycle e s))).ArbiterAgrees := ⟨by simpa using h.busy, by simpa using h.inhibits⟩
  unfold cycleFront
  by_cases hop : e.rop = .ios
  · rw [hop]
    exact arbiterExec_agrees hpre (by simp [hs])
  · obtain ⟨harb, -⟩ := runR_arb hop (runS e.sop (preload e (beginCycle e s)))
    have hhold := runR_hold hop (runS e.sop (preload e (beginCycle e s)))
    exact ⟨by rw [harb, hhold]; exact hpre.busy, by rw [harb]; exact hpre.inhibits⟩

/-! ### Storage through a cycle -/

/-- Only `R_WTM` at step 3 writes storage, and it writes at `M` as the cycle found it (R148, R193). -/
theorem runMi_mem (e : Entry) (s : State) :
    (runMi e s).mem = if e.rop = .wtm
      then (s.memWrite s.regs.m.word (runS e.sop (preload e (beginCycle e s))).regs.t.word).mem else s.mem := by
  have hm : (runS e.sop (preload e (beginCycle e s))).regs.m.word = s.regs.m.word := by
    cases h : e.sop <;> simp [runS, runSZero, runSM, runST, runSAcc, State.setAcc_regs, apply_ite]
  have hfront : (cycleFront e s).mem = (runR e.rop (runS e.sop (preload e (beginCycle e s)))).mem := rfl
  have hmi : (runMi e s).mem = (cycleFront e s).mem := by
    unfold runMi; dsimp only; split <;> simp
  rw [hmi, hfront, runR_mem, hm]
  simp [State.memWrite, State.writable, apply_ite State.mem]

theorem runMi_mem_wf (e : Entry) {s : State} (h : s.mem.wf = true) : (runMi e s).mem.wf = true := by
  rw [runMi_mem]
  split
  · obtain ⟨-, -, -, -, hwf⟩ := State.memWrite_spec s s.regs.m.word (runS e.sop (preload e (beginCycle e s))).regs.t.word
    exact hwf h
  · exact h

/-- The cell address of `M` is its value modulo the number of cells, whatever its width (R71). -/
theorem cellAddr_word (r : BitReg) : cellAddr r.word = r.nat % 32768 := by
  rw [cellAddr_eq, BitReg.word, BitVec.toNat_setWidth]
  exact Nat.mod_mod_of_dvd _ (by decide)

/-- A cycle leaves a read-only cell and every cell but the one at `M` alone (R73). -/
theorem runMi_get (e : Entry) (s : State) {a : Nat} (ha : s.writable a = false ∨ a ≠ s.regs.m.nat % 32768) :
    (runMi e s).mem.get a = s.mem.get a := by
  rw [runMi_mem]
  split
  · obtain ⟨-, hkept, -, hother, -⟩ := State.memWrite_spec s s.regs.m.word (runS e.sop (preload e (beginCycle e s))).regs.t.word
    rw [cellAddr_word] at hkept hother
    by_cases hne : a = s.regs.m.nat % 32768
    · rw [hkept (hne ▸ ha.resolve_right (not_not_intro hne))]
    · exact hother a hne
  · rfl

/-! ### The cycle and the step keep the invariant -/

/-- A state whose cycle is over meets the invariant where its arbiter and its storage do. -/
theorem State.Inv.of_idle {s : State} (hmem : s.mem.wf = true) (harb : s.ArbiterAgrees) (hs : s.hold = none) (hidle : s.Idle) :
    s.Inv :=
  ⟨hmem, harb.busy, fun h => by simp [hs] at h, fun _ => hidle, harb.inhibits⟩

/-- The end of a cycle whose engine is not held, from the state after step 3 or after a handshake. -/
theorem cycleBack_inv (e : Entry) {s : State} (hmem : s.mem.wf = true) (harb : s.ArbiterAgrees) (hs : s.hold = none) :
    (cycleBack e s).Inv :=
  .of_idle (by simpa using hmem) ((cycleBack_keepsLatches e s).agrees (harb.bsy_down hs) harb.inhibits (by simpa using hs))
    (by simpa using hs) (cycleBack_idle e s)

/-- A control word begun unheld ends between cycles, or held with its own word in progress. -/
theorem runMi_inv (e : Entry) {s : State} (h : s.Inv) (hs : s.hold = none) : (runMi e s).Inv := by
  obtain ⟨hmem, hbsy, -, -, hinh⟩ := h
  have harb := cycleFront_agrees e ⟨hbsy, hinh⟩ hs
  have hwf := runMi_mem_wf e hmem
  unfold runMi at hwf ⊢
  dsimp only at hwf ⊢
  split
  · next hheld =>
    rw [if_pos hheld] at hwf
    exact ⟨hwf, harb.busy, fun _ => by simp, fun hn => by simp [hn] at hheld, harb.inhibits⟩
  · next hfree =>
    rw [if_neg hfree, cycleBack_mem] at hwf
    exact cycleBack_inv e hwf harb (by simpa using hfree)

theorem resume_inv (h : Hold) {s : State} (hmem : s.mem.wf = true) (hbsy : s.arb.bsy = false)
    (hinh : s.arb.ssf = true → s.arb.inh = true) : (resume h s).Inv := by
  have hfin : (ioFinish h { s with hold := none }).ArbiterAgrees :=
    (ioFinish_keepsLatches h { s with hold := none }).agrees hbsy hinh (by simp)
  unfold resume; dsimp only
  split
  · exact cycleBack_inv _ (by simpa using hmem) hfin (by simp)
  · exact .of_idle (by simpa using hmem) ⟨by simpa using hfin.busy, by simpa using hfin.inhibits⟩ (by simp) (endCycle_idle _)

/-- A held engine waits with its cycle in progress, or goes on once another agent has lowered `BSY` (R275). -/
theorem heldStep_inv {h : Hold} {s : State} (hi : s.Inv) (hs : s.hold = some h) : (heldStep h s).Inv := by
  obtain ⟨hmem, -, hir, -, hinh⟩ := hi
  have hk := interleave_keepsLatches s
  have hinh' : (interleave false s).arb.ssf = true → (interleave false s).arb.inh = true := by rw [hk.ssf, hk.inh]; exact hinh
  unfold heldStep; dsimp only
  split
  · next hbsy => exact ⟨by simpa using hmem, by simp [hbsy, hs], by simpa using hir, by simp [hs], hinh'⟩
  · next hbsy => exact resume_inv h (by simpa using hmem) (Bool.eq_false_iff.2 hbsy) hinh'

/-- Between two cycles the other agents do what they do inside one, but for the preset (R276, R277, R330). -/
theorem applyEvent_boundary_eq_inside (s : State) {x : ExtEvent} (hx : x ≠ .host .preset) :
    applyEvent true s x = applyEvent false s x := by
  cases x with
  | periph d a => rfl
  | host h =>
    cases h with
    | preset => exact absurd rfl hx
    | stop v | register d | remove d => rfl

/-- Preset lowers `BSY` and `SSF` and releases the registers and buses (R330). -/
theorem powerOnPreset_inv {s : State} (hmem : s.mem.wf = true) (hs : s.hold = none) (hcyc : s.cyc = Cycle.idle) :
    (powerOnPreset s).Inv := by
  have hoff : (powerOnPreset s).regs.Off := (endCycle_idle s).1
  exact .of_idle hmem ⟨by simp [powerOnPreset, hs], by simp [powerOnPreset]⟩ hs ⟨hoff, rfl, hcyc⟩

theorem applyEvent_inv (x : ExtEvent) {s : State} (hi : s.Inv) (hs : s.hold = none) : (applyEvent true s x).Inv := by
  obtain ⟨hmem, hbsy, -, hidle, hinh⟩ := hi
  obtain ⟨hoff, hbus, hcyc⟩ := hidle hs
  by_cases hx : x = .host .preset
  · rw [hx]
    exact powerOnPreset_inv hmem hs hcyc
  · obtain ⟨hssf, hinh', -, -, hbsy'⟩ := applyEvent_latches s x
    have hagrees : { s with arb := (applyEvent false s x).arb }.ArbiterAgrees :=
      KeepsLatches.agrees ⟨hssf, hinh', hbsy'⟩ (by simpa [hs] using hbsy) hinh hs
    rw [applyEvent_boundary_eq_inside s hx, applyEvent_inside]
    exact .of_idle hmem hagrees hs ⟨hoff, hbus, hcyc⟩

theorem interleave_boundary_inv {s : State} (hi : s.Inv) (hs : s.hold = none) : (interleave true s).Inv := by
  have hfold : ∀ (g : List ExtEvent) (u : State), u.Inv → u.hold = none → (g.foldl (applyEvent true) u).Inv := by
    intro g
    induction g with
    | nil => exact fun u hu _ => hu
    | cons x g ih =>
      intro u hu hn
      obtain ⟨-, -, -, -, -, hhold, -, -⟩ := applyEvent_boundary u x
      exact ih _ (applyEvent_inv x hu hn) (hhold.trans hn)
  unfold interleave
  split
  · exact hi
  · exact hfold _ _ hi hs

/-- The two steps there are: a held engine waits or goes on, an engine that is not held runs the word at `CSA` (R190, R275). -/
theorem step_cases {s t : State} (h : step s = .next t) :
    (∃ k, s.hold = some k ∧ t = heldStep k s) ∨
    (s.hold = none ∧ t = runMi (decodeEntryBy s.cfg.opTable (interleave true s).fetchWord) (interleave true s)) := by
  obtain ⟨-, ⟨-, hcfg, -, -⟩, -⟩ := interleave_boundary s
  unfold step at h
  split at h
  · next k hk => exact .inl ⟨k, hk, (Host.Outcome.next.inj h).symm⟩
  · next hn => exact .inr ⟨hn, by rw [← hcfg]; exact (Host.Outcome.next.inj h).symm⟩

/-- Settles O59: the boundary and the word, or the wait, keep the invariant one after the other. -/
theorem everyStepKeepsTheInvariant : Obligations.EveryStepKeepsTheInvariant := by
  unfold Obligations.EveryStepKeepsTheInvariant
  intro s t hi hstep
  obtain ⟨k, hk, rfl⟩ | ⟨hn, rfl⟩ := step_cases hstep
  · exact heldStep_inv hi hk
  · obtain ⟨-, -, -, -, -, hhold, -, -⟩ := interleave_boundary s
    exact runMi_inv _ (interleave_boundary_inv hi hn) (hhold.trans hn)

/-! ### What no step changes -/

theorem runMi_sameConfiguration (e : Entry) (s : State) : SameConfiguration s (runMi e s) := by
  unfold runMi; dsimp only; split <;> simp [SameConfiguration]

theorem resume_sameConfiguration (h : Hold) (s : State) : SameConfiguration s (resume h s) := by
  unfold resume; dsimp only; split <;> simp [SameConfiguration]

theorem heldStep_sameConfiguration (h : Hold) (s : State) : SameConfiguration s (heldStep h s) := by
  unfold heldStep; dsimp only
  split
  · simp [SameConfiguration]
  · simpa [SameConfiguration] using resume_sameConfiguration h (interleave false s)

/-- A held engine has passed its storage step: the wait and the rest of the cycle write no cell (R148, R275). -/
theorem heldStep_mem (h : Hold) (s : State) : (heldStep h s).mem = s.mem := by
  have hresume : ∀ u : State, (resume h u).mem = u.mem := by
    intro u; unfold resume; dsimp only; split <;> simp
  unfold heldStep; dsimp only; split <;> simp [hresume]

/-- Settles O60: the wait writes no cell; the boundary keeps `M` and the cells' writability, and the word writes at `M` alone. -/
theorem stepKeepsConfigurationAndOtherCells : Obligations.StepKeepsConfigurationAndOtherCells := by
  unfold Obligations.StepKeepsConfigurationAndOtherCells
  intro s t hstep
  obtain ⟨k, hk, rfl⟩ | ⟨hn, rfl⟩ := step_cases hstep
  · exact ⟨heldStep_sameConfiguration k s, fun a _ => by rw [heldStep_mem]⟩
  · obtain ⟨hmem, ⟨hcs, hcfg, hrom, hw⟩, -, -, -, -, -, hval⟩ := interleave_boundary s
    have hm : (interleave true s).regs.m.nat = s.regs.m.nat := hval .M
    obtain ⟨kcs, kcfg, krom, kw⟩ := runMi_sameConfiguration
      (decodeEntryBy s.cfg.opTable (interleave true s).fetchWord) (interleave true s)
    refine ⟨⟨kcs.trans hcs, kcfg.trans hcfg, krom.trans hrom, kw.trans hw⟩, fun a ha => ?_⟩
    rw [runMi_get _ _ (a := a) (by simpa [State.writable, hrom, hm] using ha), hmem]

end Sys2Proof.Machine
end

section
/-! SUPPORT. Proofs of the family of spec/30_encoding.md: decoding and encoding undo each other (R91 to R101, R98, R260), the rows' bits
select their operations (R91 to R97, R100), and construction refuses unfit tables (R99, R227, R244, R346). -/

namespace Sys2Proof

open Machine

/-! ### The permutations and the code maps (R92, R97, R98, R101) -/

@[simp] theorem rev2_rev2 (v : BitVec 2) : rev2 (rev2 v) = v := by revert v; decide
@[simp] theorem rev3_rev3 (v : BitVec 3) : rev3 (rev3 v) = v := by revert v; decide
@[simp] theorem rotl13_rotr13 (v : BitVec 3) : rotl13 (rotr13 v) = v := by revert v; decide
@[simp] theorem rotr13_rotl13 (v : BitVec 3) : rotr13 (rotl13 v) = v := by revert v; decide
@[simp] theorem rotl14_rotr14 (v : BitVec 4) : rotl14 (rotr14 v) = v := by revert v; decide
@[simp] theorem rotr14_rotl14 (v : BitVec 4) : rotr14 (rotl14 v) = v := by revert v; decide

@[simp] theorem SOp.ofCode_code (op : SOp) : SOp.ofCode op.code = op := by cases op <;> rfl
@[simp] theorem SOp.code_ofCode (c : BitVec 2) : (SOp.ofCode c).code = c := by revert c; decide
@[simp] theorem ROp.code_ofCode (c : BitVec 3) : (ROp.ofCode c).code = c := by revert c; decide
@[simp] theorem XOp.ofCode_code (op : XOp) : XOp.ofCode op.code = op := by cases op <;> rfl
@[simp] theorem XOp.code_ofCode (c : BitVec 3) : (XOp.ofCode c).code = c := by revert c; decide
@[simp] theorem AOp.ofCode_code (op : AOp) : AOp.ofCode op.code = op := by cases op <;> rfl
@[simp] theorem AOp.code_ofCode (c : BitVec 3) : (AOp.ofCode c).code = c := by revert c; decide
@[simp] theorem IoOp.code_ofCode (c : BitVec 4) : (IoOp.ofCode c).code = c := by revert c; decide

@[simp] theorem IoOp.ofCode_code (op : IoOp) : IoOp.ofCode op.code = op := by
  cases op with
  | nopLow c => revert c; decide
  | nopHigh c => revert c; decide
  | _ => rfl

theorem SOp.ofCode_eq_iff {c : BitVec 2} {op : SOp} : SOp.ofCode c = op ↔ c = op.code :=
  ⟨fun h => h ▸ (SOp.code_ofCode c).symm, fun h => h ▸ SOp.ofCode_code op⟩
theorem XOp.ofCode_eq_iff {c : BitVec 3} {op : XOp} : XOp.ofCode c = op ↔ c = op.code :=
  ⟨fun h => h ▸ (XOp.code_ofCode c).symm, fun h => h ▸ XOp.ofCode_code op⟩
theorem AOp.ofCode_eq_iff {c : BitVec 3} {op : AOp} : AOp.ofCode c = op ↔ c = op.code :=
  ⟨fun h => h ▸ (AOp.code_ofCode c).symm, fun h => h ▸ AOp.ofCode_code op⟩

/-- The default `OPTABLE` is the code maps (R97). -/
@[simp] theorem defaultOps_sop (c : BitVec 2) : defaultOps.sop c = SOp.ofCode c := by revert c; decide
@[simp] theorem defaultOps_rop (c : BitVec 3) : defaultOps.rop c = ROp.ofCode c := by revert c; decide
@[simp] theorem defaultOps_xop (c : BitVec 3) : defaultOps.xop c = XOp.ofCode c := by revert c; decide
@[simp] theorem defaultOps_aop (c : BitVec 3) : defaultOps.aop c = AOp.ofCode c := by revert c; decide

/-! ### The fields of a control word (R91) -/

/-- A single bit is a field of one bit. -/
theorem ofBool_getLsbD_eq_extractLsb' {n : Nat} (v : BitVec n) (i : Nat) : BitVec.ofBool (v.getLsbD i) = v.extractLsb' i 1 := by
  ext j hj
  obtain rfl : j = 0 := by omega
  simp

/-- The fields of a control word as its bits hold them, before any permutation or polarity (R91, R92). -/
structure Fields where
  pm : BitVec 4
  sm : BitVec 4
  sc : BitVec 4
  iqn : Bool
  aLow : BitVec 2
  xtr : Bool
  brq : Bool
  r : BitVec 3
  x : BitVec 3
  aHigh : Bool
  ttm : Bool
  ttt : Bool
  s : BitVec 2

namespace Fields

/-- The fields of a word. -/
def ofWord (w : ControlWord) : Fields :=
  { pm := w.extractLsb' 24 4, sm := w.extractLsb' 20 4, sc := w.extractLsb' 16 4, iqn := w.getLsbD 15,
    aLow := w.extractLsb' 13 2, xtr := w.getLsbD 12, brq := w.getLsbD 11, r := w.extractLsb' 8 3, x := w.extractLsb' 5 3,
    aHigh := w.getLsbD 4, ttm := w.getLsbD 3, ttt := w.getLsbD 2, s := w.extractLsb' 0 2 }

/-- The word of some fields. -/
def word (f : Fields) : ControlWord :=
  f.pm ++ f.sm ++ f.sc ++ BitVec.ofBool f.iqn ++ f.aLow ++ BitVec.ofBool f.xtr ++ BitVec.ofBool f.brq ++ f.r ++ f.x
    ++ BitVec.ofBool f.aHigh ++ BitVec.ofBool f.ttm ++ BitVec.ofBool f.ttt ++ f.s

@[simp] theorem word_ofWord (w : ControlWord) : (ofWord w).word = w := by
  simp only [word, ofWord, ofBool_getLsbD_eq_extractLsb', BitVec.extractLsb'_append_extractLsb'_eq_extractLsb']
  exact BitVec.extractLsb'_eq_self

@[simp] theorem ofWord_word (f : Fields) : ofWord f.word = f := by
  simp only [ofWord, word, BitVec.getLsbD_append, BitVec.extractLsb'_append_eq_of_le,
    BitVec.extractLsb'_append_eq_of_add_le, Nat.reduceLeDiff, Nat.reduceSub, Nat.reduceLT, if_true, if_false,
    BitVec.extractLsb'_eq_self, BitVec.getLsbD_ofBool, decide_true, Bool.true_and]

theorem word_inj {f g : Fields} : f.word = g.word ↔ f = g :=
  ⟨fun h => by rw [← ofWord_word f, h, ofWord_word], fun h => h ▸ rfl⟩

/-- The entry of the fields: permuted, in decoded polarity, with the derived operations in place (R92 to R96, R100). -/
def entry (f : Fields) : Entry :=
  let rx := substitute (!f.xtr) (ROp.ofCode (rev3 f.r)) (XOp.ofCode (rotl13 f.x))
  let alu := BitVec.ofBool f.aHigh ++ rev2 f.aLow
  let e : Entry :=
    { sop := SOp.ofCode (rev2 f.s), rop := rx.1, xop := rx.2, aop := AOp.ofCode alu, alu := alu, ttt := !f.ttt, ttm := !f.ttm,
      xtr := !f.xtr, brq := f.brq, iqn := f.iqn, sc := f.sc, pm := f.pm, sm := rotl14 f.sm, skip := false }
  { e with skip := e.skipOf }

theorem decodeEntry_eq (w : ControlWord) : decodeEntry w = (ofWord w).entry := by
  simp [decodeEntry, decodeEntryBy, entry, ofWord]

end Fields

/-- The raw X code an entry's word carries: the derived `R_E` was made from `X = 4` (R100). -/
def Entry.xCode (e : Entry) : BitVec 3 :=
  if e.rop = .e then XOp.e.code else e.xop.code

/-- The fields of an entry's word (R101). -/
def Entry.fields (e : Entry) : Fields :=
  { pm := e.pm, sm := rotr14 e.sm, sc := e.sc, iqn := e.iqn, aLow := rev2 (e.alu.extractLsb' 0 2), xtr := !e.xtr, brq := e.brq,
    r := rev3 e.rop.code, x := rotr13 e.xCode, aHigh := e.alu.getLsbD 2, ttm := !e.ttm, ttt := !e.ttt, s := rev2 e.sop.code }

theorem encodeEntry_eq (e : Entry) : encodeEntry e = e.fields.word := rfl

/-- The opcode and the two pieces of its field (R94). -/
theorem ofBool_append_extractLsb' (v : BitVec 3) : BitVec.ofBool (v.getLsbD 2) ++ v.extractLsb' 0 2 = v := by revert v; decide
theorem extractLsb'_ofBool_append (b : Bool) (v : BitVec 2) : (BitVec.ofBool b ++ v).extractLsb' 0 2 = v :=
  BitVec.extractLsb'_append_eq_right
theorem getLsbD_ofBool_append (b : Bool) (v : BitVec 2) : (BitVec.ofBool b ++ v).getLsbD 2 = b := by
  rw [BitVec.getLsbD_append, if_neg (by decide), BitVec.getLsbD_ofBool, decide_eq_true rfl, Bool.true_and]

/-! ### The derived operations (R100) -/

/-- No code selects a derived R-op by itself (R97, R100). -/
theorem ROp.ofCode_eq_iff {c : BitVec 3} {op : ROp} :
    ROp.ofCode c = op ↔ c = op.code ∧ op ≠ .unitx ∧ op ≠ .ios ∧ op ≠ .e := by
  revert c; cases op <;> decide

/-- What an R-op asks of the transfer-enable flag and of the raw X code beside its own code (R100). -/
def ROp.asks (op : ROp) (xtr : Bool) (x : BitVec 3) : Prop :=
  match op with
  | .unit | .p => xtr = false
  | .unitx | .ios => xtr = true
  | .tre => x ≠ XOp.e.code
  | .e => x = XOp.e.code
  | .zero | .q | .rdm | .wtm | .acc => True

/-- The substitution, on raw codes: the R-op is the one whose code stands and whose demands are met
(R100). -/
theorem substitute_fst_eq_iff (xtr : Bool) (r x : BitVec 3) (op : ROp) :
    (substitute xtr (ROp.ofCode r) (XOp.ofCode x)).1 = op ↔ r = op.code ∧ op.asks xtr x := by
  simp only [substitute, Bool.and_eq_true, beq_iff_eq, ROp.ofCode_eq_iff, XOp.ofCode_eq_iff]
  split
  · next h =>
    obtain ⟨rfl, rfl, -⟩ := h
    cases op <;> simp [ROp.asks, ROp.code]
  next hunit =>
  split
  · next h =>
    obtain ⟨rfl, rfl, -⟩ := h
    cases op <;> simp [ROp.asks, ROp.code]
  next hp =>
  split
  · next h =>
    obtain ⟨⟨rfl, -⟩, rfl⟩ := h
    cases op <;> simp [ROp.asks, ROp.code]
  next he =>
  simp only [ROp.ofCode_eq_iff]
  cases op <;> cases xtr <;> simp_all [ROp.asks, ROp.code]

/-- Only `R_E` takes the place of the X-op (R100). -/
theorem substitute_snd (xtr : Bool) (r : ROp) (x : XOp) (hr : r ≠ .e) :
    (substitute xtr r x).2 = if (substitute xtr r x).1 = .e then .none else x := by
  unfold substitute
  split
  · simp
  split
  · simp
  split
  · simp
  · rfl

/-- The agreement of an entry's operations with its flags, said of its raw codes (R100). -/
theorem Entry.agrees_iff (e : Entry) :
    e.transferAgrees = true ∧ e.throughEAgrees = true ↔ e.rop.asks e.xtr e.xCode ∧ (e.rop = .e → e.xop = .none) := by
  unfold Entry.transferAgrees Entry.throughEAgrees Entry.xCode
  cases hr : e.rop with
  | tre => cases e.xop <;> simp [ROp.asks, XOp.code]
  | _ => simp [ROp.asks]

/-- An entry's agreement lets the substitution make its operations from its raw codes. -/
theorem substitute_of_agrees {e : Entry} (h : e.transferAgrees = true ∧ e.throughEAgrees = true) :
    substitute e.xtr (ROp.ofCode e.rop.code) (XOp.ofCode e.xCode) = (e.rop, e.xop) := by
  obtain ⟨hasks, hnone⟩ := e.agrees_iff.1 h
  have hrop := (substitute_fst_eq_iff e.xtr e.rop.code e.xCode e.rop).2 ⟨rfl, hasks⟩
  refine Prod.ext hrop ?_
  rw [substitute_snd _ _ _ (by simp [ROp.ofCode_eq_iff]), hrop]
  split
  · next he => exact (hnone he).symm
  · next he => simp [Entry.xCode, he]

theorem Fields.rop_eq_iff (f : Fields) (op : ROp) :
    f.entry.rop = op ↔ rev3 f.r = op.code ∧ op.asks (!f.xtr) (rotl13 f.x) :=
  substitute_fst_eq_iff _ _ _ _

theorem Fields.entry_xop (f : Fields) : f.entry.xop = if f.entry.rop = .e then .none else XOp.ofCode (rotl13 f.x) :=
  substitute_snd _ _ _ (by simp [ROp.ofCode_eq_iff])

theorem Fields.entry_xCode (f : Fields) : f.entry.xCode = rotl13 f.x := by
  unfold Entry.xCode
  split
  · next h => exact ((f.rop_eq_iff _).1 h).2.symm
  · next h => rw [f.entry_xop, if_neg h, XOp.code_ofCode]

/-! ### Decoding and encoding undo each other (R101) -/

theorem Fields.entry_wf (f : Fields) : f.entry.wf = true := by
  obtain ⟨ht, he⟩ := f.entry.agrees_iff.2
    ⟨by rw [f.entry_xCode]; exact ((f.rop_eq_iff _).1 rfl).2, fun h => by rw [f.entry_xop, if_pos h]⟩
  have ha : f.entry.alu = f.entry.aop.code := (AOp.code_ofCode _).symm
  have hs : f.entry.skip = f.entry.skipOf := rfl
  simp [Entry.wf, ht, he, ha, hs]

theorem Fields.fields_entry (f : Fields) : f.entry.fields = f := by
  have hr : f.entry.rop.code = rev3 f.r := ((f.rop_eq_iff _).1 rfl).1.symm
  simp only [Entry.fields, hr, f.entry_xCode]
  simp only [Fields.entry, extractLsb'_ofBool_append, getLsbD_ofBool_append, SOp.code_ofCode, Bool.not_not, rev2_rev2, rev3_rev3,
    rotr13_rotl13, rotr14_rotl14]

theorem Entry.entry_fields {e : Entry} (h : e.wf = true) : e.fields.entry = e := by
  simp only [Entry.wf, Bool.and_eq_true, beq_iff_eq] at h
  obtain ⟨⟨hagree, halu⟩, hskip⟩ := h
  have hsub := substitute_of_agrees hagree
  simp only [Fields.entry, Entry.fields, Bool.not_not, rev2_rev2, rev3_rev3, rotl13_rotr13, rotl14_rotr14, hsub,
    ofBool_append_extractLsb', SOp.ofCode_code]
  rw [halu, AOp.ofCode_code]
  cases e
  simp_all [Entry.skipOf]

/-- Every word decodes to a well-formed entry (R99). -/
theorem decodeEntry_wf (w : ControlWord) : (decodeEntry w).wf = true := by
  rw [Fields.decodeEntry_eq]; exact Fields.entry_wf _

/-- A word is the encoding of the entry it decodes to (R101). -/
theorem encodeEntry_decodeEntry (w : ControlWord) : encodeEntry (decodeEntry w) = w := by
  rw [Fields.decodeEntry_eq, encodeEntry_eq, Fields.fields_entry, Fields.word_ofWord]

/-- A well-formed entry is what its encoding decodes to (R101). -/
theorem decodeEntry_encodeEntry {e : Entry} (h : e.wf = true) : decodeEntry (encodeEntry e) = e := by
  rw [Fields.decodeEntry_eq, encodeEntry_eq, Fields.ofWord_word, Entry.entry_fields h]

/-- `Q` holds an I/O operation in its low eleven bits (R98). -/
theorem decodeIoq_eq (q : Word) :
    decodeIoq q = if q.getLsbD 10 then some ⟨IoOp.ofCode (q.extractLsb' 5 4), q.extractLsb' 0 5, q.getLsbD 9⟩ else none :=
  rfl

/-- An I/O operation is what its value of `Q` holds (R98). -/
theorem decodeIoq_encodeIo (x : IoWord) : decodeIoq (encodeIo x) = some x := by
  rw [decodeIoq_eq, if_pos (Laws.encodeIo_bits x).2]
  simp only [encodeIo, BitVec.getLsbD_append, BitVec.extractLsb'_append_eq_of_le,
    BitVec.extractLsb'_append_eq_of_add_le, Nat.reduceLeDiff, Nat.reduceSub, Nat.reduceLT, if_true, if_false,
    BitVec.extractLsb'_eq_self, BitVec.getLsbD_ofBool, decide_true, Bool.true_and, IoOp.ofCode_code]

/-- Encoding the operation in `Q` gives `Q` but for its unused bits (R98, R260). -/
theorem encodeIo_of_decodeIoq {q : Word} {x : IoWord} (h : decodeIoq q = some x) : encodeIo x = q &&& 0x07FF := by
  rw [decodeIoq_eq] at h
  split at h
  · next hioe =>
    obtain rfl := Option.some.inj h
    have hone : 1#1 = q.extractLsb' 10 1 := by rw [← ofBool_getLsbD_eq_extractLsb', hioe]; rfl
    have hq : q.extractLsb' 11 5 ++ q.extractLsb' 10 1 ++ q.extractLsb' 9 1 ++ q.extractLsb' 5 4 ++ q.extractLsb' 0 5 = q := by
      simp only [BitVec.extractLsb'_append_extractLsb'_eq_extractLsb']
      exact BitVec.extractLsb'_eq_self
    have hmask : (0x07FF : Word) =
        0#5 ++ BitVec.allOnes 1 ++ BitVec.allOnes 1 ++ BitVec.allOnes 4 ++ BitVec.allOnes 5 := rfl
    calc encodeIo ⟨IoOp.ofCode (q.extractLsb' 5 4), q.extractLsb' 0 5, q.getLsbD 9⟩
        = 0#5 ++ q.extractLsb' 10 1 ++ q.extractLsb' 9 1 ++ q.extractLsb' 5 4 ++ q.extractLsb' 0 5 := by
          rw [encodeIo, hone, IoOp.code_ofCode, ofBool_getLsbD_eq_extractLsb']
      _ = (q.extractLsb' 11 5 ++ q.extractLsb' 10 1 ++ q.extractLsb' 9 1 ++ q.extractLsb' 5 4 ++ q.extractLsb' 0 5) &&& 0x07FF := by
          simp only [hmask, BitVec.and_append, BitVec.and_allOnes, BitVec.and_zero]
      _ = q &&& 0x07FF := by rw [hq]
  · cases h

theorem encode_toInstr (x : IoWord) : encode x.toInstr = .ioq (encodeIo x) := by
  obtain ⟨op, sc, hc⟩ := x
  cases op <;> rfl

theorem decodeQ_of_decodeIoq {q : Word} {x : IoWord} (h : decodeIoq q = some x) : decodeQ q = x.toInstr := by
  rw [decodeQ, h]

/-- A row that is a word of its own is the row MI, a dispatched I/O operation or the acknowledge (R98, R172). -/
theorem Instr.word_cases {i : Instr} (h : i.part = none) : (∃ e, i = .mi e) ∨ (∃ x : IoWord, i = x.toInstr) ∨ i = .ioAck := by
  cases i with
  | mi e => exact .inl ⟨e, rfl⟩
  | ioStf sc hc => exact .inr (.inl ⟨⟨.stf, sc, hc⟩, rfl⟩)
  | ioSfc sc hc => exact .inr (.inl ⟨⟨.sfc, sc, hc⟩, rfl⟩)
  | ioStc sc hc => exact .inr (.inl ⟨⟨.stc, sc, hc⟩, rfl⟩)
  | ioClc sc hc => exact .inr (.inl ⟨⟨.clc, sc, hc⟩, rfl⟩)
  | ioSfs sc hc => exact .inr (.inl ⟨⟨.sfs, sc, hc⟩, rfl⟩)
  | ioLi8 sc hc => exact .inr (.inl ⟨⟨.li8, sc, hc⟩, rfl⟩)
  | ioLi16 sc hc => exact .inr (.inl ⟨⟨.li16, sc, hc⟩, rfl⟩)
  | ioOt8 sc hc => exact .inr (.inl ⟨⟨.ot8, sc, hc⟩, rfl⟩)
  | ioOt16 sc hc => exact .inr (.inl ⟨⟨.ot16, sc, hc⟩, rfl⟩)
  | ioEow sc hc => exact .inr (.inl ⟨⟨.eow, sc, hc⟩, rfl⟩)
  | ioNopLow c sc hc => exact .inr (.inl ⟨⟨.nopLow c, sc, hc⟩, rfl⟩)
  | ioNopHigh c sc hc => exact .inr (.inl ⟨⟨.nopHigh c, sc, hc⟩, rfl⟩)
  | ioAck => exact .inr (.inr rfl)
  | _ => cases h

/-- Settles O1: a control word by its fields, an I/O operation by those of `Q`; the acknowledge is a single word. -/
theorem decodeOfEncodeGivesInstruction : Obligations.DecodeOfEncodeGivesInstruction := by
  unfold Obligations.DecodeOfEncodeGivesInstruction
  intro i hwf hpart
  obtain ⟨e, rfl⟩ | ⟨x, rfl⟩ | rfl := i.word_cases hpart
  · exact congrArg Instr.mi (decodeEntry_encodeEntry hwf)
  · rw [encode_toInstr]
    exact decodeQ_of_decodeIoq (decodeIoq_encodeIo x)
  · rfl

/-- Settles O2: the fields of a word, and those of `Q`, are all its bits but `Q[15:11]`. -/
theorem encodeOfDecodeGivesTheWord : Obligations.EncodeOfDecodeGivesTheWord := by
  unfold Obligations.EncodeOfDecodeGivesTheWord
  refine ⟨fun w => ⟨decodeEntry_wf w, encodeEntry_decodeEntry w⟩, fun q => ⟨fun h => ?_, fun h => ?_⟩⟩
  · have hio := (decodeIoq_eq q).trans (if_pos h)
    rw [decodeQ_of_decodeIoq hio, encode_toInstr, encodeIo_of_decodeIoq hio]
  · rw [decodeQ, decodeIoq_eq, h]
    rfl

/-! ### The bits of a row (spec/opcode_table.json) -/

theorem rev2_eq_iff {v c : BitVec 2} : rev2 v = c ↔ v = rev2 c := Function.Involutive.eq_iff rev2_rev2
theorem rev3_eq_iff {v c : BitVec 3} : rev3 v = c ↔ v = rev3 c := Function.Involutive.eq_iff rev3_rev3
theorem rotl13_eq_iff {v c : BitVec 3} : rotl13 v = c ↔ v = rotr13 c :=
  ⟨fun h => h ▸ (rotr13_rotl13 v).symm, fun h => h ▸ rotl13_rotr13 c⟩

namespace Fields

/-- Two words' fields, and-ed. -/
def and (f g : Fields) : Fields :=
  { pm := f.pm &&& g.pm, sm := f.sm &&& g.sm, sc := f.sc &&& g.sc, iqn := f.iqn && g.iqn, aLow := f.aLow &&& g.aLow,
    xtr := f.xtr && g.xtr, brq := f.brq && g.brq, r := f.r &&& g.r, x := f.x &&& g.x, aHigh := f.aHigh && g.aHigh,
    ttm := f.ttm && g.ttm, ttt := f.ttt && g.ttt, s := f.s &&& g.s }

theorem word_and (f g : Fields) : (f.and g).word = f.word &&& g.word := by
  simp only [word, and, ← BitVec.ofBool_and_ofBool, ← BitVec.and_append]

/-- The fields of the all-zero word: a mask or match is these with the row's own fields set. -/
def blank : Fields :=
  { pm := 0#4, sm := 0#4, sc := 0#4, iqn := false, aLow := 0#2, xtr := false, brq := false, r := 0#3, x := 0#3, aHigh := false,
    ttm := false, ttt := false, s := 0#2 }

end Fields

theorem ofBool_append_eq_iff {b : Bool} {v : BitVec 2} {c : BitVec 3} :
    BitVec.ofBool b ++ v = c ↔ b = c.getLsbD 2 ∧ v = c.extractLsb' 0 2 := by
  constructor
  · rintro rfl
    exact ⟨(getLsbD_ofBool_append b v).symm, (extractLsb'_ofBool_append b v).symm⟩
  · rintro ⟨rfl, rfl⟩
    exact ofBool_append_extractLsb' c

/-- The bits of a row stand in a word where they stand in its fields: mask and match are themselves words of fields. -/
theorem standsIn_iff {i : Instr} (mask val : Fields) (h : i.part = some (mask.word.toNat, val.word.toNat)) (w : ControlWord) :
    i.standsIn w = true ↔ (Fields.ofWord w).and mask = val := by
  rw [← Fields.word_inj, Fields.word_and, Fields.word_ofWord]
  simp [Instr.standsIn, h]

theorem sRow_standsIn (op : SOp) (w : ControlWord) : (sRow op).standsIn w = true ↔ (decodeEntry w).sop = op := by
  rw [standsIn_iff { Fields.blank with s := BitVec.allOnes 2 } { Fields.blank with s := rev2 op.code } (by cases op <;> rfl),
    Fields.decodeEntry_eq]
  simp only [Fields.entry, SOp.ofCode_eq_iff, rev2_eq_iff]
  simp only [Fields.and, Fields.blank, BitVec.and_allOnes, BitVec.and_zero, Bool.and_false, Fields.mk.injEq, true_and]

theorem aRow_standsIn (op : AOp) (w : ControlWord) : (aRow op).standsIn w = true ↔ (decodeEntry w).aop = op := by
  rw [standsIn_iff { Fields.blank with aLow := BitVec.allOnes 2, aHigh := true }
    { Fields.blank with aLow := rev2 (op.code.extractLsb' 0 2), aHigh := op.code.getLsbD 2 } (by cases op <;> rfl),
    Fields.decodeEntry_eq]
  simp only [Fields.entry, AOp.ofCode_eq_iff, ofBool_append_eq_iff, rev2_eq_iff]
  simp only [Fields.and, Fields.blank, BitVec.and_allOnes, BitVec.and_zero, Bool.and_false, Bool.and_true, Fields.mk.injEq, true_and,
    and_true]
  exact and_comm

/-- An X-row's bits are the raw X code (R97). -/
theorem xRow_standsIn (op : XOp) (w : ControlWord) : (xRow op).standsIn w = true ↔ (decodeEntry w).xCode = op.code := by
  rw [standsIn_iff { Fields.blank with x := BitVec.allOnes 3 } { Fields.blank with x := rotr13 op.code } (by cases op <;> rfl),
    Fields.decodeEntry_eq, Fields.entry_xCode, rotl13_eq_iff]
  simp only [Fields.and, Fields.blank, BitVec.and_allOnes, BitVec.and_zero, Bool.and_false, Fields.mk.injEq, true_and, and_true]

/-- The fields an R-row's mask covers: the raw R code; transfer-enable for the four rows it parts; the X code for `R_E` (R100). -/
def rowMask (op : ROp) : Fields :=
  { Fields.blank with
    r := BitVec.allOnes 3
    xtr := op = .unit ∨ op = .unitx ∨ op = .p ∨ op = .ios
    x := if op = .e then BitVec.allOnes 3 else 0#3 }

/-- What an R-row's bits are under its mask. -/
def rowMatch (op : ROp) : Fields :=
  { Fields.blank with
    r := rev3 op.code
    xtr := op = .unit ∨ op = .p
    x := if op = .e then rotr13 XOp.e.code else 0#3 }

theorem and_rowMask_eq_iff (op : ROp) (f : Fields) :
    f.and (rowMask op) = rowMatch op ↔ rev3 f.r = op.code ∧ (op = .tre ∨ op.asks (!f.xtr) (rotl13 f.x)) := by
  simp only [Fields.and, rowMask, rowMatch, Fields.blank, BitVec.and_allOnes, BitVec.and_zero, Bool.and_false, Fields.mk.injEq,
    apply_ite (f.x &&& ·), rev3_eq_iff]
  cases op <;> simp [ROp.asks, rotl13_eq_iff, and_comm]

/-- An R-row but R_TRE has in its bits all that R100 asks for its operation. -/
theorem rRow_standsIn {op : ROp} (hop : op ≠ .tre) (w : ControlWord) :
    (rRow op).standsIn w = true ↔ (decodeEntry w).rop = op := by
  rw [standsIn_iff (rowMask op) (rowMatch op) (by cases op <;> rfl), Fields.decodeEntry_eq, Fields.rop_eq_iff, and_rowMask_eq_iff,
    or_iff_right hop]

/-- The row R_TRE has the bits of its raw code alone, which the derived `R_E` shares (R100). -/
theorem rTre_standsIn (w : ControlWord) :
    Instr.rTre.standsIn w = true ↔ (decodeEntry w).rop = .tre ∨ (decodeEntry w).rop = .e := by
  have hcode : ROp.e.code = ROp.tre.code := rfl
  rw [standsIn_iff (rowMask .tre) (rowMatch .tre) rfl, Fields.decodeEntry_eq, Fields.rop_eq_iff, Fields.rop_eq_iff, and_rowMask_eq_iff,
    hcode, ← and_or_left]
  simp only [ROp.asks, true_or, ne_eq, em']

theorem flag_standsIn (w : ControlWord) :
    (Instr.ttt.standsIn w = true ↔ (decodeEntry w).ttt = true) ∧ (Instr.ttm.standsIn w = true ↔ (decodeEntry w).ttm = true) ∧
    (Instr.xtr.standsIn w = true ↔ (decodeEntry w).xtr = true) ∧ (Instr.brq.standsIn w = true ↔ (decodeEntry w).brq = true) ∧
    (Instr.iqn.standsIn w = true ↔ (decodeEntry w).iqn = true) := by
  rw [Fields.decodeEntry_eq, standsIn_iff { Fields.blank with ttt := true } Fields.blank rfl,
    standsIn_iff { Fields.blank with ttm := true } Fields.blank rfl, standsIn_iff { Fields.blank with xtr := true } Fields.blank rfl,
    standsIn_iff { Fields.blank with brq := true } { Fields.blank with brq := true } rfl,
    standsIn_iff { Fields.blank with iqn := true } { Fields.blank with iqn := true } rfl]
  simp [Fields.and, Fields.blank, Fields.entry]

/-! ### A row stands where it is selected (R96, R100) -/

@[simp] theorem selects_sRow (e : Entry) (op : SOp) : e.selects (sRow op) = (e.sop == op) := by cases op <;> rfl
@[simp] theorem selects_rRow (e : Entry) (op : ROp) : e.selects (rRow op) = (e.rop == op) := by cases op <;> rfl
@[simp] theorem selects_xRow (e : Entry) (op : XOp) : e.selects (xRow op) = (e.xop == op) := by cases op <;> rfl
@[simp] theorem selects_aRow (e : Entry) (op : AOp) : e.selects (aRow op) = (e.aop == op) := by cases op <;> rfl

/-- The X-op is the one of the raw X code, but beside the derived `R_E` (R100). -/
theorem decodeEntry_xop (w : ControlWord) :
    (decodeEntry w).xop = if (decodeEntry w).rop = .e then .none else XOp.ofCode (decodeEntry w).xCode := by
  rw [Fields.decodeEntry_eq, Fields.entry_xCode, ← Fields.entry_xop]

/-- What the statement says of one row and one word. -/
def RowSelected (i : Instr) (w : ControlWord) : Prop :=
  (Instr.rE.standsIn w = false ∨ (i ≠ .rE ∧ i ≠ .xNone ∧ i ≠ .rTre ∧ i ≠ .xE) → (decodeEntry w).selects i = i.standsIn w) ∧
  (Instr.rE.standsIn w = true → i = .rE ∨ i = .xNone → (decodeEntry w).selects i = true) ∧
  (Instr.rE.standsIn w = true → i = .rTre ∨ i = .xE → (decodeEntry w).selects i = false)

/-- A row that stands exactly where it is selected, and that is none of the three rows the derived pair covers. -/
theorem rowSelected_of_iff {i : Instr} {w : ControlWord} (hi : i ≠ .xNone ∧ i ≠ .rTre ∧ i ≠ .xE)
    (h : i.standsIn w = true ↔ (decodeEntry w).selects i = true) : RowSelected i w := by
  obtain ⟨hnone, htre, he⟩ := hi
  refine ⟨fun _ => (Bool.eq_iff_iff.2 h).symm, fun hp hrow => ?_, fun _ hrow => ?_⟩
  · obtain rfl := hrow.resolve_right hnone
    exact h.1 hp
  · exact absurd hrow (not_or.2 ⟨htre, he⟩)

theorem sRow_selected (op : SOp) (w : ControlWord) : RowSelected (sRow op) w :=
  rowSelected_of_iff (by cases op <;> simp [sRow]) (by simpa using sRow_standsIn op w)

theorem aRow_selected (op : AOp) (w : ControlWord) : RowSelected (aRow op) w :=
  rowSelected_of_iff (by cases op <;> simp [aRow]) (by simpa using aRow_standsIn op w)

theorem rRow_selected {op : ROp} (hop : op ≠ .tre) (w : ControlWord) : RowSelected (rRow op) w :=
  rowSelected_of_iff (by cases op <;> simp_all [rRow]) (by simpa using rRow_standsIn hop w)

/-- The pair of R100 stands where the decoded entry has the derived `R_E`. -/
theorem rE_standsIn (w : ControlWord) : Instr.rE.standsIn w = true ↔ (decodeEntry w).rop = .e :=
  rRow_standsIn (op := .e) (by decide) w

theorem rTre_selected (w : ControlWord) : RowSelected .rTre w := by
  have hsel : (decodeEntry w).selects .rTre = ((decodeEntry w).rop == .tre) := selects_rRow _ .tre
  simp only [RowSelected, hsel, ← Bool.not_eq_true, Bool.eq_iff_iff (b := Instr.standsIn _ _), rTre_standsIn, rE_standsIn]
  by_cases hp : (decodeEntry w).rop = .e <;> simp [hp]

theorem xRow_selected (op : XOp) (w : ControlWord) : RowSelected (xRow op) w := by
  simp only [RowSelected, ← Bool.not_eq_true, Bool.eq_iff_iff (b := Instr.standsIn _ _), xRow_standsIn, rE_standsIn, selects_xRow,
    decodeEntry_xop]
  by_cases hp : (decodeEntry w).rop = .e
  · have hx : (decodeEntry w).xCode = XOp.e.code := if_pos hp
    rw [hx, ← XOp.ofCode_eq_iff, XOp.ofCode_code]
    cases op <;> simp [hp, xRow]
  · simp [hp, XOp.ofCode_eq_iff]

/-- Settles O3: row by row; only the three rows that the derived pair covers differ from their bits. -/
theorem rowBitsSelectTheirOperation : Obligations.RowBitsSelectTheirOperation := by
  unfold Obligations.RowBitsSelectTheirOperation
  intro i w hpart hclf
  obtain ⟨httt, httm, hxtr, hbrq, hiqn⟩ := flag_standsIn w
  cases i with
  | sZero => exact sRow_selected .zero w
  | sM => exact sRow_selected .m w
  | sT => exact sRow_selected .t w
  | sAcc => exact sRow_selected .acc w
  | rZero => exact rRow_selected (op := .zero) (by decide) w
  | rUnit => exact rRow_selected (op := .unit) (by decide) w
  | rUnitx => exact rRow_selected (op := .unitx) (by decide) w
  | rP => exact rRow_selected (op := .p) (by decide) w
  | rIos => exact rRow_selected (op := .ios) (by decide) w
  | rTre => exact rTre_selected w
  | rE => exact rRow_selected (op := .e) (by decide) w
  | rQ => exact rRow_selected (op := .q) (by decide) w
  | rRdm => exact rRow_selected (op := .rdm) (by decide) w
  | rWtm => exact rRow_selected (op := .wtm) (by decide) w
  | rAcc => exact rRow_selected (op := .acc) (by decide) w
  | xNone => exact xRow_selected .none w
  | xP => exact xRow_selected .p w
  | xQ => exact xRow_selected .q w
  | xAcc => exact xRow_selected .acc w
  | xE => exact xRow_selected .e w
  | xQb => exact xRow_selected .qb w
  | xDec => exact xRow_selected .dec w
  | xCab => exact xRow_selected .cab w
  | aZero => exact aRow_selected .zero w
  | aAnd => exact aRow_selected .and w
  | aIor => exact aRow_selected .ior w
  | aXor => exact aRow_selected .xor w
  | aAdd => exact aRow_selected .add w
  | aSub => exact aRow_selected .sub w
  | aIorc => exact aRow_selected .iorc w
  | aIors => exact aRow_selected .iors w
  | ttt => exact rowSelected_of_iff (by simp) httt
  | ttm => exact rowSelected_of_iff (by simp) httm
  | xtr => exact rowSelected_of_iff (by simp) hxtr
  | brq => exact rowSelected_of_iff (by simp) hbrq
  | iqn => exact rowSelected_of_iff (by simp) hiqn
  | ioClf => exact absurd rfl hclf
  | _ => cases hpart

/-- Settles O5: each word is decoded. -/
theorem writtenOutWordsDecode : Obligations.WrittenOutWordsDecode := by
  unfold Obligations.WrittenOutWordsDecode
  decide

end Sys2Proof

namespace Sys2Proof.Machine

/-! ### Construction refuses unfit tables (R99, R227, R244, R346) -/

/-- The fields of an index of the ALU table after the opcode stand together (R223). -/
theorem aluIndex_eq_append (op : BitVec 3) (cw dm a0 sb rb : Bool) :
    aluIndex op cw dm a0 sb rb =
      op ++ (BitVec.ofBool cw ++ BitVec.ofBool dm ++ BitVec.ofBool a0 ++ BitVec.ofBool sb ++ BitVec.ofBool rb) := by
  revert op cw dm a0 sb rb; decide

/-- With both buses unclaimed the index ends in two zeros (R346). -/
theorem aluIndex_unclaimed (op : BitVec 3) (cw dm a0 : Bool) :
    aluIndex op cw dm a0 false false = op ++ (BitVec.ofBool cw ++ BitVec.ofBool dm ++ BitVec.ofBool a0) ++ 0#2 := by
  revert op cw dm a0; decide

/-- A check of every number of `n` bits is a check of every value. -/
theorem all_range_ofNat_iff {n k : Nat} (hk : k = 2 ^ n) (p : BitVec n → Bool) :
    ((List.range k).all fun i => p (BitVec.ofNat n i)) = true ↔ ∀ v : BitVec n, p v = true := by
  subst hk
  simp only [List.all_eq_true, List.mem_range]
  constructor
  · intro h v
    simpa using h v.toNat v.isLt
  · exact fun h i _ => h _

/-- The three bits of an entry that are read (R223). -/
theorem aluEntryOf_low (cupd ct t : Bool) :
    (aluEntryOf cupd ct t).extractLsb' 0 3 = BitVec.ofBool cupd ++ BitVec.ofBool ct ++ BitVec.ofBool t := by
  cases cupd <;> cases ct <;> cases t <;> rfl

/-- An opcode whose entries pass for addition's has them at every index (R227 (a), R244). -/
theorem tableAt_of_addsAt {alu : Vector (BitVec 8) 256} {code : BitVec 3} (h : addsAt alu code = true) (c dm a0 sb rb : Bool) :
    (tableAt alu (aluIndex code c dm a0 sb rb)).extractLsb' 0 3 =
      BitVec.ofBool true ++ BitVec.ofBool ((rb && sb) || (rb && c) || (sb && c)) ++ BitVec.ofBool (rb ^^ sb ^^ c) := by
  have hall := (all_range_ofNat_iff rfl fun v : BitVec 5 =>
    (tableAt alu (code ++ v)).extractLsb' 0 3 == (refAluAt (AOp.add.code ++ v)).extractLsb' 0 3).1 h
  have hentry := beq_iff_eq.1
    (hall (BitVec.ofBool c ++ BitVec.ofBool dm ++ BitVec.ofBool a0 ++ BitVec.ofBool sb ++ BitVec.ofBool rb))
  rw [← aluIndex_eq_append, ← aluIndex_eq_append, refAluAt_aluIndex] at hentry
  exact hentry.trans (aluEntryOf_low _ _ _)

/-- There is an opcode of addition where the check finds one (R227 (a)). -/
theorem exists_addsAt_of_additionCheck {ops : OpTable} {alu : Vector (BitVec 8) 256} (h : additionCheck ops alu = true) :
    ∃ code, ops.aop code = .add ∧ addsAt alu code = true := by
  obtain ⟨code, hmem, hadds⟩ := List.any_eq_true.1 h
  exact ⟨code, beq_iff_eq.1 (List.mem_filter.1 hmem).2, hadds⟩

/-- An opcode that allows shift-skip has fitting entries where the check passes (R346). -/
theorem skipFits_of_skipCheck {ops : OpTable} {alu : Vector (BitVec 8) 256} (h : skipCheck ops alu = true) {code : BitVec 3}
    (hskip : (ops.aop code).skipOK = true) : skipFits alu code = true := by
  have hall := (all_range_ofNat_iff rfl fun c : BitVec 3 => !(ops.aop c).skipOK || skipFits alu c).1 h
  simpa [hskip] using hall code

/-- What fitting entries are, at every index of two unclaimed buses (U4, R346). -/
theorem tableAt_of_skipFits {alu : Vector (BitVec 8) 256} {code : BitVec 3} (h : skipFits alu code = true) (c dm a0 : Bool) :
    (tableAt alu (aluIndex code c dm a0 false false)).getLsbD 2 = false ∧
    (tableAt alu (aluIndex code c dm a0 false false)).getLsbD 0 =
      (tableAt alu (aluIndex code false false false false false)).getLsbD 0 := by
  have hall := (all_range_ofNat_iff rfl fun v : BitVec 3 =>
    !(tableAt alu (code ++ v ++ 0#2)).getLsbD 2 &&
      (tableAt alu (code ++ v ++ 0#2)).getLsbD 0 == (tableAt alu (code ++ 0#5)).getLsbD 0).1 h
  have hentry := hall (BitVec.ofBool c ++ BitVec.ofBool dm ++ BitVec.ofBool a0)
  rw [← aluIndex_unclaimed, Bool.and_eq_true, Bool.not_eq_true', beq_iff_eq] at hentry
  rwa [aluIndex_eq_append code false]

/-- A constructed machine has the supplied operations, and its tables pass their checks (R331, R334). -/
theorem checks_of_construct {f : RomFiles} {ops : OpSource} {devices : List DirEntry} {init t : State}
    (h : construct f ops devices init = .ok t) :
    ops = opSourceOf t.cfg.opTable ∧ additionCheck t.cfg.opTable t.cfg.aluTable = true ∧
      skipCheck t.cfg.opTable t.cfg.aluTable = true := by
  obtain ⟨cs, alu, bcd, o, -, -, -, hops, hcheck, rfl⟩ := (construct_eq_ok_iff f ops devices init t).1 h
  obtain ⟨hadd, hskip, -⟩ := (checkTables_eq_ok_iff o _ _).1 hcheck
  exact ⟨(OpSource.table_eq_ok_iff ops o).1 hops, hadd, hskip⟩

/-- No column of a table without a gap has one (R99). -/
theorem none_notMem_opSourceOf (t : OpTable) :
    none ∉ (opSourceOf t).s.toList ∧ none ∉ (opSourceOf t).r.toList ∧ none ∉ (opSourceOf t).x.toList ∧
      none ∉ (opSourceOf t).a.toList := by
  simp [opSourceOf]

/-- Settles O9: a machine that is constructed has come through the checks, so a table that fails one builds none. -/
theorem constructionRefusesUnfitTables : Obligations.ConstructionRefusesUnfitTables := by
  unfold Obligations.ConstructionRefusesUnfitTables
  intro f ops devices init
  refine ⟨fun hgap => ?_, fun t ht => ?_⟩
  · cases hc : construct f ops devices init with
    | error e => exact ⟨e, rfl⟩
    | ok t =>
      obtain ⟨rfl, -, -⟩ := checks_of_construct hc
      obtain ⟨hs, hr, hx, ha⟩ := none_notMem_opSourceOf t.cfg.opTable
      simp [hs, hr, hx, ha] at hgap
  · obtain ⟨-, hadd, hskip⟩ := checks_of_construct ht
    obtain ⟨code, hop, hadds⟩ := exists_addsAt_of_additionCheck hadd
    exact ⟨⟨code, hop, tableAt_of_addsAt hadds⟩, fun code c dm a0 hok =>
      tableAt_of_skipFits (skipFits_of_skipCheck hskip hok) c dm a0⟩

end Sys2Proof.Machine
end

section
/-! SUPPORT. Proofs of the family of spec/40_bit_register.md: the value a serial transfer leaves (R127, R128), the two-phase pulse of the
register file (R123 to R125, R131, R206, R340), and the tap and byte-rotating registers (R130, R131). -/

namespace Sys2Proof.Machine

/-! ### One pulse as arithmetic -/

/-- A right shift by one with a bit entering at the top, as a number (R124). -/
theorem toNat_shiftIn {w : Nat} (hw : 0 < w) (b : Bool) (v : BitVec w) :
    (shiftIn b v).toNat = b.toNat * 2 ^ (w - 1) + v.toNat / 2 := by
  have hlt : v.toNat / 2 < 2 ^ (w - 1) := by
    rw [Nat.div_lt_iff_lt_mul (by omega), ← Nat.pow_succ, Nat.succ_eq_add_one, Nat.sub_add_cancel hw]
    exact v.isLt
  apply Nat.eq_of_testBit_eq
  intro i
  rw [BitVec.testBit_toNat, getLsbD_shiftIn, Nat.mul_comm, Nat.testBit_two_pow_mul_add _ hlt, Nat.testBit_div_two, BitVec.testBit_toNat,
    Nat.testBit_bool_toNat]
  rcases Nat.lt_trichotomy (i + 1) w with h | h | h
  · simp [show i + 1 ≠ w by omega, show i < w - 1 by omega]
  · simp [h, show ¬ i < w - 1 by omega, show i - (w - 1) = 0 by omega]
  · simp [show i + 1 ≠ w by omega, show ¬ i < w - 1 by omega, show i - (w - 1) ≠ 0 by omega, BitVec.getLsbD_of_ge v (i + 1) (by omega)]

/-- What the shift of an enabled register does, under its selector and without it (R124, R131). -/
theorem BitReg.shift_on {r : BitReg} (h : r.en = true) : r.shift = { r with val := shiftIn r.lat r.val } :=
  if_pos h
theorem BitReg.shiftSel_on {r : BitReg} (h : r.en = true) (byte : Bool) :
    r.shiftSel byte = { r with val := if byte then shiftInByte r.lat r.val else shiftIn r.lat r.val } :=
  if_pos h

/-- The shift of an enabled register, as a number (R124). -/
theorem BitReg.shift_nat {r : BitReg} (h : r.en = true) (hw : 0 < r.width) :
    r.shift.nat = r.lat.toNat * 2 ^ (r.width - 1) + r.nat / 2 := by
  rw [BitReg.shift_on h]
  exact toNat_shiftIn hw r.lat r.val

/-- The low byte of a byte rotation is the rotation of the low byte (R131). -/
theorem setWidth_shiftInByte {w : Nat} (hw : 8 ≤ w) (b : Bool) (v : BitVec w) :
    (shiftInByte b v).setWidth 8 = shiftIn b (v.setWidth 8) := by
  apply BitVec.eq_of_getLsbD_eq
  intro i hi
  rw [BitVec.getLsbD_setWidth, getLsbD_shiftInByte hw, getLsbD_shiftIn, BitVec.getLsbD_setWidth]
  by_cases h7 : i = 7
  · simp [h7]
  · simp [hi, h7, show i < 7 by omega, show i + 1 < 8 by omega]

/-- A byte rotation leaves what stands above the low byte (R131). -/
theorem toNat_shiftInByte_div {w : Nat} (hw : 8 ≤ w) (b : Bool) (v : BitVec w) : (shiftInByte b v).toNat / 256 = v.toNat / 256 := by
  apply Nat.eq_of_testBit_eq
  intro i
  rw [show 256 = 2 ^ 8 from rfl, Nat.testBit_div_two_pow, Nat.testBit_div_two_pow, BitVec.testBit_toNat, BitVec.testBit_toNat,
    getLsbD_shiftInByte hw, if_neg (by omega), if_neg (by omega)]

/-- The low byte after a byte rotation, as a number (R131). -/
theorem toNat_shiftInByte_mod {w : Nat} (hw : 8 ≤ w) (b : Bool) (v : BitVec w) :
    (shiftInByte b v).toNat % 256 = b.toNat * 128 + v.toNat % 256 / 2 := by
  have h := congrArg BitVec.toNat (setWidth_shiftInByte hw b v)
  rwa [toNat_shiftIn (by decide), BitVec.toNat_setWidth, BitVec.toNat_setWidth] at h

/-! ### Serial transfers (R127, R128) -/

/-- What a receiver of `w` bits and of value `r` holds after `k` bits of `x`, the low one first, have entered at its top (R127). -/
def movedIn (w k x r : Nat) : Nat :=
  x % 2 ^ k * 2 ^ (w - k) + r / 2 ^ k

/-- One pulse moves in one bit of the source (R123 to R125). -/
theorem BitReg.pulse_nat {r : BitReg} (h : r.en = true) (hw : 0 < r.width) (x : BitReg) :
    (r.loadInput x.outBit).shift.nat = movedIn r.width 1 x.nat r.nat := by
  have hbit : x.outBit.toNat = x.nat % 2 := by
    rw [BitReg.outBit_eq, ← BitReg.testBit_nat, Nat.toNat_testBit, Nat.pow_zero, Nat.div_one]
  rw [BitReg.pulse_on h]
  exact (toNat_shiftIn hw x.outBit r.val).trans (by rw [hbit]; rfl)

/-- `k` more bits after the first: the source itself takes some bit `c` at its top meanwhile, which does not reach the receiver. -/
theorem movedIn_succ {w k : Nat} (h : k + 1 ≤ w) (c x r : Nat) :
    movedIn w k (movedIn w 1 c x) (movedIn w 1 x r) = movedIn w (k + 1) x r := by
  obtain ⟨d, rfl⟩ := Nat.exists_eq_add_of_le h
  have hk : k + 1 + d - k = d + 1 := by omega
  have h1 : k + 1 + d - 1 = k + d := by omega
  have hd : k + 1 + d - (k + 1) = d := by omega
  have hpow : ∀ y, y * 2 ^ (k + d) = 2 ^ k * (y * 2 ^ d) := fun y => by ring
  unfold movedIn
  rw [hk, h1, hd, hpow, hpow, Nat.pow_one, Nat.mul_add_mod, Nat.mul_add_div (Nat.two_pow_pos k), Nat.div_div_eq_div_mul,
    Nat.pow_succ' (n := k), Nat.mod_mul]
  ring

/-- One pulse of a receiver and its source, the source taking a bit of some `y`, and then `k` more. -/
theorem movedIn_pulse {w k : Nat} (hk : k + 1 ≤ w) {x r : BitReg} (hxw : x.width = w) (hrw : r.width = w) (hx : x.en = true)
    (hr : r.en = true) (y : BitReg) :
    movedIn w k (x.loadInput y.outBit).shift.nat (r.loadInput x.outBit).shift.nat = movedIn w (k + 1) x.nat r.nat := by
  rw [BitReg.pulse_nat hx (by omega), BitReg.pulse_nat hr (by omega), hxw, hrw, movedIn_succ hk]

/-- After as many bits as the receiver holds, it holds the source. -/
theorem movedIn_all {w x r : Nat} (hx : x < 2 ^ w) (hr : r < 2 ^ w) : movedIn w w x r = x := by
  simp [movedIn, Nat.mod_eq_of_lt hx, Nat.div_eq_of_lt hr]

@[simp] theorem movedIn_zero (w x r : Nat) : movedIn w 0 x r = r := by
  simp [movedIn, Nat.mod_one]

@[simp] theorem feedPulses_zero (p : BitReg × BitReg) : feedPulses 0 p = p := rfl
theorem feedPulses_succ (k : Nat) (x r : BitReg) :
    feedPulses (k + 1) (x, r) = feedPulses k ((x.loadInput x.outBit).shift, (r.loadInput x.outBit).shift) := rfl
@[simp] theorem crossPulses_zero (p : BitReg × BitReg) : crossPulses 0 p = p := rfl
theorem crossPulses_succ (k : Nat) (a b : BitReg) :
    crossPulses (k + 1) (a, b) = crossPulses k ((a.loadInput b.outBit).shift, (b.loadInput a.outBit).shift) := rfl

/-- No pulse changes a width (R120). -/
theorem feedPulses_width (k : Nat) (x r : BitReg) :
    (feedPulses k (x, r)).1.width = x.width ∧ (feedPulses k (x, r)).2.width = r.width := by
  induction k generalizing x r with
  | zero => exact ⟨rfl, rfl⟩
  | succ k ih => simpa [feedPulses_succ] using ih (x.loadInput x.outBit).shift (r.loadInput x.outBit).shift

/-- `k` pulses from a source that rotates in place move its `k` low bits into the receiver and around in the source itself (R127). -/
theorem feedPulses_nat {k w : Nat} {x r : BitReg} (hk : k ≤ w) (hxw : x.width = w) (hrw : r.width = w) (hx : x.en = true)
    (hr : r.en = true) :
    (feedPulses k (x, r)).1.nat = movedIn w k x.nat x.nat ∧ (feedPulses k (x, r)).2.nat = movedIn w k x.nat r.nat := by
  induction k generalizing x r with
  | zero => simp
  | succ k ih =>
    obtain ⟨hsource, hreceiver⟩ := ih (x := (x.loadInput x.outBit).shift) (r := (r.loadInput x.outBit).shift) (by omega)
      (by simpa using hxw) (by simpa using hrw) (by rwa [BitReg.pulse_en]) (by rwa [BitReg.pulse_en])
    exact ⟨hsource.trans (movedIn_pulse hk hxw hxw hx hx x), hreceiver.trans (movedIn_pulse hk hxw hrw hx hr x)⟩

/-- `k` pulses of two registers bound to each other move the `k` low bits of each into the other (R127, R128). -/
theorem crossPulses_nat {k w : Nat} {a b : BitReg} (hk : k ≤ w) (haw : a.width = w) (hbw : b.width = w) (ha : a.en = true)
    (hb : b.en = true) :
    (crossPulses k (a, b)).1.nat = movedIn w k b.nat a.nat ∧ (crossPulses k (a, b)).2.nat = movedIn w k a.nat b.nat := by
  induction k generalizing a b with
  | zero => simp
  | succ k ih =>
    obtain ⟨hfst, hsnd⟩ := ih (a := (a.loadInput b.outBit).shift) (b := (b.loadInput a.outBit).shift) (by omega)
      (by simpa using haw) (by simpa using hbw) (by rwa [BitReg.pulse_en]) (by rwa [BitReg.pulse_en])
    exact ⟨hfst.trans (movedIn_pulse hk hbw haw hb ha a), hsnd.trans (movedIn_pulse hk haw hbw ha hb b)⟩

/-- Settles O23: each pulse moves one bit in (`movedIn_succ`), and after all `N` of them source and receiver hold the source. -/
theorem serialTransferMovesLowBitsFirst : Obligations.SerialTransferMovesLowBitsFirst := by
  unfold Obligations.SerialTransferMovesLowBitsFirst
  intro k x r hw hx hr
  have hxlt : x.nat < 2 ^ r.width := hw ▸ x.nat_lt
  obtain ⟨hsource, hreceiver⟩ := feedPulses_nat (Nat.le_refl _) hw rfl hx hr
  obtain ⟨hwx, hwr⟩ := feedPulses_width k x r
  refine ⟨fun hk => (feedPulses_nat hk hw rfl hx hr).2, ?_, ?_, hwr, hwx⟩
  · rw [hreceiver, movedIn_all hxlt r.nat_lt]
  · rw [hsource, movedIn_all hxlt hxlt]

/-- Settles O24: each of the two is the other's receiver, for one pulse and for `N`. -/
theorem crossWiredRegistersExchange : Obligations.CrossWiredRegistersExchange := by
  unfold Obligations.CrossWiredRegistersExchange
  intro w a b haw hbw ha hb
  obtain ⟨ha1, hb1⟩ := crossPulses_nat (by omega : 1 ≤ w + 1) haw hbw ha hb
  obtain ⟨haN, hbN⟩ := crossPulses_nat (Nat.le_refl (w + 1)) haw hbw ha hb
  have halt : a.nat < 2 ^ (w + 1) := haw ▸ a.nat_lt
  have hblt : b.nat < 2 ^ (w + 1) := hbw ▸ b.nat_lt
  exact ⟨ha1, hb1, haN.trans (movedIn_all hblt halt), hbN.trans (movedIn_all halt hblt)⟩

/-! ### The pulse of the register file (R125, R131, R206) -/

/-- A register by name. -/
def Regs.reg (r : Regs) : RegName → BitReg
  | .A => r.a
  | .B => r.b
  | .T => r.t
  | .M => r.m
  | .P => r.p
  | .Q => r.q
  | .E => r.e
  | .IOR => r.ior
  | .AUX => r.aux

theorem Regs.bit_reg (r : Regs) (i : Nat) (n : RegName) : r.bit i n = (r.reg n).bit i := by cases n <;> rfl
theorem Regs.latch_reg (r : Regs) (n : RegName) : r.latch n = (r.reg n).lat := by cases n <;> rfl
theorem Regs.binding_reg (r : Regs) (n : RegName) : r.binding n = ((r.reg n).src, (r.reg n).en) := by cases n <;> rfl
theorem Regs.widths_reg (r : Regs) (n : RegName) : r.widths.of n = (r.reg n).width := by cases n <;> rfl

/-- Whether a register rotates its low byte only: `IOR` under its selector (R131). -/
def Regs.byteMode (r : Regs) (n : RegName) : Bool :=
  decide (n = .IOR) && r.iorByte

/-- What a pulse does to each register by name: it takes the bit its source held in the file before the pulse. -/
theorem Regs.pulse_reg (tbus : Bool) (r : Regs) (n : RegName) :
    (r.pulse allRegs tbus).reg n = ((r.reg n).loadInput (r.sourceBit tbus (r.reg n).src)).shiftSel (r.byteMode n) := by
  rw [Regs.pulse_all]
  cases n with
  | IOR => rfl
  | _ => exact (BitReg.shiftSel_false _).symm

/-- One pulse of an enabled register under a byte selector, bit by bit, at every width (R124, R131; below 8 bits log entry 6). -/
theorem BitReg.pulseSel_bit {r : BitReg} (h : r.en = true) (byte b : Bool) {i : Nat} (hi : i < r.width) :
    ((r.loadInput b).shiftSel byte).bit i =
      if byte = true ∧ 7 ≤ i then (if i = 7 then b else r.bit i) else if i + 1 = r.width then b else r.bit (i + 1) := by
  cases byte with
  | false => simp [BitReg.pulse_bit h]
  | true =>
    rcases Nat.lt_or_ge r.width 8 with hw | hw
    · have hwhole : ((r.loadInput b).shiftSel true).bit i = (r.loadInput b).shift.bit i := by
        rw [BitReg.pulseSel_on h, BitReg.pulse_on h]
        simp [BitReg.bit, shiftInByte, Nat.le_of_lt hw]
      simp [hwhole, BitReg.pulse_bit h, show ¬ 7 ≤ i by omega]
    · rw [BitReg.pulseByte_bit h hw]
      by_cases h7 : i < 7
      · simp [h7, show ¬ 7 ≤ i by omega, show i + 1 ≠ r.width by omega]
      · simp [h7, show 7 ≤ i by omega]

/-- Settles O25: `Regs.pulse_reg` says what each register takes, whatever the others do. -/
theorem pulseOfTheRegisterFileIsTwoPhase : Obligations.PulseOfTheRegisterFileIsTwoPhase := by
  unfold Obligations.PulseOfTheRegisterFileIsTwoPhase
  intro r tbus
  refine ⟨fun n => ?_, rfl, Regs.pulse_widths .., fun ha hb _ _ => ?_⟩
  · simp only [Regs.bit_reg, Regs.latch_reg, Regs.binding_reg, Regs.widths_reg, Regs.pulse_reg]
    refine ⟨by simp, fun hon => ⟨?_, fun i hi => ?_⟩, fun hoff => ?_⟩
    · rw [BitReg.pulseSel_on hon]
    · simpa [Regs.byteMode, and_assoc] using BitReg.pulseSel_bit hon (r.byteMode n) _ hi
    · simp [hoff]
  · rw [Regs.pulse_all, ha, hb, crossPulses_succ]
    exact ⟨rfl, rfl⟩

/-! ### The tap register and `IOR` (R130, R131) -/

theorem TapReg.shift_on {w : Nat} {r : TapReg w} (h : r.en = true) : r.shift = { r with val := setBit r.tap.val r.lat r.val } :=
  if_pos h
theorem TapReg.shift_off {w : Nat} {r : TapReg w} (h : r.en = false) : r.shift = r := by
  simp [TapReg.shift, h]

/-- A pulse of an enabled tap register: its tap bit takes the bit of its source (R123, R130). -/
theorem TapReg.pulse_on {w : Nat} {r : TapReg w} (h : r.en = true) (regs : Regs) (tbus : Bool) :
    r.pulse regs tbus =
      { r with val := setBit r.tap.val (r.sourceBit regs tbus) r.val, lat := r.sourceBit regs tbus } := by
  simp [TapReg.pulse, TapReg.loadInput, TapReg.shift, h]

/-- A tap register that is off takes no part in a pulse (R123, R124). -/
theorem TapReg.pulse_off {w : Nat} {r : TapReg w} (h : r.en = false) (regs : Regs) (tbus : Bool) : r.pulse regs tbus = r := by
  simp [TapReg.pulse, TapReg.loadInput, h, TapReg.shift_off h]

/-- To write a bit with its own value changes nothing. -/
theorem setBit_getLsbD {w : Nat} (pos : Nat) (v : BitVec w) : setBit pos (v.getLsbD pos) v = v := by
  apply BitVec.eq_of_getLsbD_eq
  intro i _
  rw [getLsbD_setBit]
  split
  · next h => rw [h.1]
  · rfl

/-- Bound to itself, a tap register keeps its value (R130). -/
theorem TapReg.pulse_self_val {w : Nat} {r : TapReg w} (hs : r.src = .self) (regs : Regs) (tbus : Bool) :
    (r.pulse regs tbus).val = r.val := by
  cases hen : r.en with
  | false => rw [TapReg.pulse_off hen]
  | true =>
    have hbit : r.sourceBit regs tbus = r.val.getLsbD r.tap.val := by simp [TapReg.sourceBit, hs, TapReg.outBit]
    rw [TapReg.pulse_on hen, hbit]
    exact setBit_getLsbD ..

/-- After a pulse the output bit is the bit its source held (R125, R130). -/
theorem TapReg.pulse_outBit {w : Nat} {r : TapReg w} (h : r.en = true) (regs : Regs) (tbus : Bool) :
    (r.pulse regs tbus).outBit = r.sourceBit regs tbus := by
  rw [TapReg.pulse_on h, TapReg.outBit, getLsbD_setBit, if_pos ⟨rfl, r.tap.isLt⟩]

/-- The shift of an enabled register under its byte selector, as a number (R131). -/
theorem BitReg.shiftSel_true_nat {r : BitReg} (h : r.en = true) (hw : 8 ≤ r.width) :
    (r.shiftSel true).nat / 256 = r.nat / 256 ∧ (r.shiftSel true).nat % 256 = r.lat.toNat * 128 + r.nat % 256 / 2 := by
  rw [BitReg.shiftSel_on h]
  exact ⟨toNat_shiftInByte_div hw .., toNat_shiftInByte_mod hw ..⟩

/-- A bit times its weight is the weight where the bit is set. -/
theorem bool_toNat_mul_eq_ite (b : Bool) (n : Nat) : b.toNat * n = if b then n else 0 := by
  cases b <;> simp

/-- Settles O26: the tap register by its shift and pulse, `IOR` by its shift as arithmetic. -/
theorem specializedRegistersShiftTheirPart : Obligations.SpecializedRegistersShiftTheirPart := by
  unfold Obligations.SpecializedRegistersShiftTheirPart
  refine ⟨fun w r i regs tbus on x => ?_, fun r hw hen => ?_⟩
  · refine ⟨rfl, rfl, rfl, rfl, fun hon => ?_, fun hoff => ⟨TapReg.shift_off hoff, TapReg.pulse_off hoff regs tbus⟩, rfl,
      fun hs => TapReg.pulse_self_val hs regs tbus, fun y hon hs => ?_⟩
    · rw [TapReg.shift_on hon, getLsbD_setBit]
      simp [r.tap.isLt]
    · rw [TapReg.pulse_outBit hon, TapReg.sourceBit, hs]
  · obtain ⟨hhigh, hlow⟩ := BitReg.shiftSel_true_nat hen hw
    rw [← bool_toNat_mul_eq_ite, ← bool_toNat_mul_eq_ite, BitReg.shiftSel_false]
    exact ⟨hhigh, hlow, BitReg.shift_nat hen (by omega)⟩

end Sys2Proof.Machine
end

section
/-! SUPPORT. Proofs of the family of spec/41_bus_operations.md, the rows alone: what each operation and flag does to the state (R143 to
R169), the decoded skip flag (R163), and the cycle as the chain of its rows (R142, R190). -/

namespace Sys2Proof.Machine

/-! ### The rows of the bus operations and flags (R143 to R169) -/

/-- The selected accumulator and its write, where `AB` is known (R21, R22). -/
theorem State.acc_of_a {s : State} (h : s.ab = false) : s.acc = s.regs.a := by simp [State.acc, h]
theorem State.acc_of_b {s : State} (h : s.ab = true) : s.acc = s.regs.b := by simp [State.acc, h]
theorem State.accName_of_a {s : State} (h : s.ab = false) : s.accName = .A := by simp [State.accName, h]
theorem State.accName_of_b {s : State} (h : s.ab = true) : s.accName = .B := by simp [State.accName, h]
theorem State.setAcc_of_a {s : State} (h : s.ab = false) (r : BitReg) :
    s.setAcc r = { s with regs := { s.regs with a := r } } := by simp [State.setAcc, h]
theorem State.setAcc_of_b {s : State} (h : s.ab = true) (r : BitReg) :
    s.setAcc r = { s with regs := { s.regs with b := r } } := by simp [State.setAcc, h]

/-- Settles O15: the accumulator by the value of `AB`, the others as they are written. -/
theorem sOpsClaimTheDestinationBus : Obligations.SOpsClaimTheDestinationBus := by
  unfold Obligations.SOpsClaimTheDestinationBus
  intro s
  have hacc : exec .sAcc s = .next ((s.driveS (.reg s.accName)).setAcc s.acc.enable) := rfl
  refine ⟨rfl, rfl, rfl, fun h => ?_, fun h => ?_⟩
  · rw [hacc, State.accName_of_a h, State.acc_of_a h, State.setAcc_of_a (s := s.driveS _) h]; rfl
  · rw [hacc, State.accName_of_b h, State.acc_of_b h, State.setAcc_of_b (s := s.driveS _) h]; rfl

/-- Settles O16: the accumulator by the value of `AB`, the others as they are written. -/
theorem rOpsClaimTheSourceBus : Obligations.ROpsClaimTheSourceBus := by
  unfold Obligations.ROpsClaimTheSourceBus
  intro s
  have hacc : exec .rAcc s = .next ((s.driveR (.reg s.accName)).setAcc s.acc.enable) := rfl
  refine ⟨rfl, rfl, rfl, rfl, rfl, rfl, rfl, fun h => ?_, fun h => ?_⟩
  · rw [hacc, State.accName_of_a h, State.acc_of_a h, State.setAcc_of_a (s := s.driveR _) h]; rfl
  · rw [hacc, State.accName_of_b h, State.acc_of_b h, State.setAcc_of_b (s := s.driveR _) h]; rfl

/-- A write of one bit, at the positions the register has (R130, R207). -/
theorem getLsbD_setBit_of_lt {w : Nat} (pos : Nat) (b : Bool) (v : BitVec w) {i : Nat} (hi : i < w) :
    (setBit pos b v).getLsbD i = if i = pos then b else v.getLsbD i := by
  rw [getLsbD_setBit]
  by_cases h : i = pos
  · rw [if_pos ⟨h, h ▸ hi⟩, if_pos h]
  · rw [if_neg (fun hc => h hc.1), if_neg h]

/-- Settles O19: X_ACC by the value of `AB`, X_QB bit by bit. -/
theorem xOpsRouteTheComputationBus : Obligations.XOpsRouteTheComputationBus := by
  unfold Obligations.XOpsRouteTheComputationBus
  intro s
  have hacc : exec .xAcc s = .next (s.setAcc s.acc.arm) := rfl
  refine ⟨rfl, rfl, rfl, rfl, fun h => ?_, fun h => ?_, rfl, rfl, _, rfl, fun i hi => getLsbD_setBit_of_lt _ _ _ hi, fun h => ?_⟩
  · rw [hacc, State.acc_of_a h, State.setAcc_of_a h]; rfl
  · rw [hacc, State.acc_of_b h, State.setAcc_of_b h]; rfl
  · rw [h]; rfl

/-- Settles O21: XTR by the value of `AB`, the flags as they are written. -/
theorem destinationFlagsAndPreload : Obligations.DestinationFlagsAndPreload := by
  unfold Obligations.DestinationFlagsAndPreload
  intro s
  have hxtr : exec .xtr s = .next { s with buses := { s.buses with iob := some s.acc.word } } := rfl
  exact ⟨rfl, rfl, fun h => by rw [hxtr, State.acc_of_a h], fun h => by rw [hxtr, State.acc_of_b h]⟩

/-! ### Storage (R147, R148) -/

/-- Settles O17: both reach the cell whose address `M` names, and the write is that of `MemWrite`. -/
theorem storageOperationsReachOneCell : Obligations.StorageOperationsReachOneCell := by
  unfold Obligations.StorageOperationsReachOneCell
  intro s hwf
  have haddr := cellAddr_word s.regs.m
  obtain ⟨hframe, hro, hput, hother, hkeep⟩ := State.memWrite_spec s s.regs.m.word s.regs.t.word
  rw [haddr] at hro hput hother
  refine ⟨?_, s.memWrite s.regs.m.word s.regs.t.word, rfl, hframe, hkeep hwf, fun h => hput h hwf, hro, hother⟩
  rw [← haddr]; rfl

/-! ### The skip flag (R163) -/

theorem SOp.skipOK_iff (op : SOp) : op.skipOK = true ↔ op = .zero := by cases op <;> decide
theorem ROp.skipOK_iff (op : ROp) : op.skipOK = true ↔ op = .zero ∨ op = .wtm := by cases op <;> decide
theorem XOp.skipOK_iff (op : XOp) : op.skipOK = true ↔ op = .none ∨ op = .qb ∨ op = .cab := by cases op <;> decide
theorem AOp.skipOK_iff (op : AOp) : op.skipOK = true ↔ op = .zero ∨ op = .and ∨ op = .ior ∨ op = .xor := by
  cases op <;> decide

/-- The flag of an entry that computes it, as a conjunction (R163). -/
theorem Entry.skipOf_iff (e : Entry) :
    e.skipOf = true ↔ e.ttt = false ∧ e.ttm = false ∧ e.xtr = false ∧ e.sop = .zero ∧ (e.rop = .zero ∨ e.rop = .wtm) ∧
      (e.xop = .none ∨ e.xop = .qb ∨ e.xop = .cab) ∧ e.aop.skipOK = true := by
  rw [← SOp.skipOK_iff, ← ROp.skipOK_iff, ← XOp.skipOK_iff]
  simp [Entry.skipOf, and_assoc]

/-- Settles O4: the decoder's flag is `Entry.skipOf` of the entry. -/
theorem skipFlagIsComputedAtDecode : Obligations.SkipFlagIsComputedAtDecode := by
  unfold Obligations.SkipFlagIsComputedAtDecode
  intro w
  have hskip : (decodeEntry w).skip = (decodeEntry w).skipOf := rfl
  rw [hskip, Entry.skipOf_iff, AOp.skipOK_iff]

/-! ### A cycle by its rows (R142, R190) -/

@[simp] theorem after_sRow (op : SOp) (s : State) : after (sRow op) s = runS op s := by cases op <;> rfl
@[simp] theorem after_rRow (op : ROp) (s : State) : after (rRow op) s = runR op s := by cases op <;> rfl
@[simp] theorem after_aRow (op : AOp) (s : State) : after (aRow op) s = runA op s := by cases op <;> rfl
@[simp] theorem afterIf_ttt (b : Bool) (s : State) : afterIf b .ttt s = if b then runTtt s else s := rfl
@[simp] theorem afterIf_ttm (b : Bool) (s : State) : afterIf b .ttm s = if b then runTtm s else s := rfl
@[simp] theorem afterIf_xtr (b : Bool) (s : State) : afterIf b .xtr s = if b then runXtr s else s := rfl
@[simp] theorem afterIf_iqn (b : Bool) (s : State) : afterIf b .iqn s = if b then runIqn s else s := rfl
@[simp] theorem after_brq (s : State) : after .brq s = runBrq s := rfl

/-- X_QB is the one row that acts at the terminating pass and not at step 5 (R165, R207). -/
@[simp] theorem afterIf_xRow (op : XOp) (s : State) : afterIf (op != .qb) (xRow op) s = runX op s := by cases op <;> rfl
@[simp] theorem afterIf_xQb (op : XOp) (s : State) : afterIf (op == .qb) .xQb s = specialCase op s := by cases op <;> rfl

theorem frontByRows_eq (e : Entry) (s : State) : frontByRows e s = cycleFront e s := by
  simp only [frontByRows, after_rRow, after_sRow, afterIf_xtr]
  rfl

theorem setupByRows_eq (e : Entry) (s : State) : setupByRows e s = tripCount e (runX e.xop (armTargets e s)) := by
  simp only [setupByRows, afterIf_ttt, afterIf_ttm, afterIf_xRow, afterIf_iqn, tripCount, armTargets, Bool.and_eq_true, beq_iff_eq]

theorem lastPassByRows_eq (e : Entry) (s : State) : lastPassByRows e s = terminate e (runA e.aop s) := by
  simp only [lastPassByRows, after_aRow, after_brq, afterIf_xQb, terminate]

theorem loopByRows_eq {e : Entry} (h : e.alu = e.aop.code) (n : Nat) (s : State) : loopByRows e n s = shiftLoop e n s := by
  induction n generalizing s with
  | zero => rw [loopByRows, shiftLoop, lastPassByRows_eq, runA_eq, h]
  | succ n ih => simp only [loopByRows, shiftLoop, ih, lastPassByRows_eq, after_aRow, runA_eq, h]

theorem backByRows_eq {e : Entry} (h : e.alu = e.aop.code) (s : State) : backByRows e s = cycleBack e s := by
  simp only [backByRows, setupByRows_eq, loopByRows_eq h, cycleBack, runLoop]

theorem cycleByRows_eq {e : Entry} (h : e.wf = true) (s : State) : cycleByRows e s = runMi e s := by
  simp only [cycleByRows, frontByRows_eq, backByRows_eq (Entry.alu_of_wf h), runMi]

/-- The row of a dispatched operation runs its dispatch (R161, R261). -/
theorem exec_toInstr (i : IoWord) (s : State) : exec i.toInstr s = .next (dispatchIo i s) := by
  obtain ⟨op, sc, hc⟩ := i
  cases op <;> rfl

theorem exec_rIos_of_some {s : State} {i : IoWord} (h : s.ioWord = some i) : exec .rIos s = exec i.toInstr s := by
  rw [exec_toInstr, ← show arbiterExec s = dispatchIo i s by rw [arbiterExec, h]]
  rfl

/-- Settles O14: step by step the rows are the functions the cycle runs. -/
theorem cycleRunsTheRowsItSelects : Obligations.CycleRunsTheRowsItSelects := by
  unfold Obligations.CycleRunsTheRowsItSelects
  exact fun s e hwf => ⟨congrArg Host.Outcome.next (cycleByRows_eq hwf s).symm, fun i hi => exec_rIos_of_some hi⟩

/-! ### The I/O start (R161, R259 to R261) -/

/-- The operation in `Q`, by its fields (R260). -/
theorem State.ioWord_eq (s : State) :
    s.ioWord = if s.qIoe then some { op := IoOp.ofCode s.qIoop, sc := s.qSc, hc := s.holdClear } else none := rfl

theorem exec_rIos_of_none {s : State} (h : s.ioWord = none) : exec .rIos s = .next (runIoAck s) := by
  rw [← show arbiterExec s = runIoAck s by rw [arbiterExec, h]]
  rfl

/-- The devices the arbiter addresses now answer that none stays busy (R252, R275). -/
def State.NoneBusy (s : State) : Prop :=
  (s.nextAnswers (lookupDevices s.arb.directory s.arb.sel).length).any (·.1) = false

/-- `NoneBusy` reads the schedule of answers, the directory and the addressed code alone. -/
theorem State.NoneBusy.congr {s t : State} (h : s.NoneBusy) (hext : t.ext = s.ext) (hdir : t.arb.directory = s.arb.directory)
    (hsel : t.arb.sel = s.arb.sel) : t.NoneBusy := by
  rw [State.NoneBusy, hdir, hsel, State.nextAnswers_congr hext]
  exact h

/-- The handshake ends at once where no addressed device stays busy (R253, R275). -/
theorem setCEO_bsy {s : State} (h : s.NoneBusy) (dir : Dir) : (setCEO dir s).arb.bsy = false := by
  by_cases hl : lookupDevices s.arb.directory s.arb.sel = []
  · rw [setCEO_absent hl]; rfl
  · cases dir
    · rw [setCEO_in hl]; exact h
    · rw [setCEO_out hl]; exact h

/-- What a finished operation leaves of the arbiter and the hold (R259, R272): the engine goes on, the acknowledged state is left, the
select code is addressed, and the flag is clear where the hold/clear bit asks for it. -/
structure Finished (sel : SelectCode) (hc : Bool) (t : State) : Prop where
  hold : t.hold = none
  ssf : t.arb.ssf = false
  sel : t.arb.sel = sel
  rdy : hc = true → t.arb.rdy = false

theorem ioEnd_finished {sel : SelectCode} (hc : Bool) {s : State} (hs : s.hold = none) (hssf : s.arb.ssf = false)
    (hsel : s.arb.sel = sel) : Finished sel hc (ioEnd hc s) :=
  ⟨by simp [hs], by simp [hssf], by simp [hsel], fun h => by simp [h]⟩

theorem handshake_finished {sel : SelectCode} (dir : Dir) (h : Hold) {s : State} (hs : s.hold = none) (hssf : s.arb.ssf = false)
    (hsel : s.arb.sel = sel) (hb : s.NoneBusy) : Finished sel h.clf (handshake dir h s) := by
  have hssf' : (setCEO dir s).arb.ssf = false := by rw [setCEO_arb]; exact hssf
  have hsel' : (setCEO dir s).arb.sel = sel := by rw [setCEO_arb]; exact hsel
  unfold handshake
  simp only [setCEO_bsy hb, Bool.false_eq_true, if_false]
  unfold ioFinish
  cases h.post <;> exact ioEnd_finished h.clf (by simp [hs]) (by simp [hssf']) (by simp [hsel'])

theorem offer_finished {sel : SelectCode} (v : Word) (hc : Bool) {s : State} (hs : s.hold = none) (hssf : s.arb.ssf = false)
    (hsel : s.arb.sel = sel) (hb : s.NoneBusy) : Finished sel hc (offer v hc s) := by
  unfold offer
  dsimp only
  split
  · exact ioEnd_finished hc hs hssf hsel
  all_goals exact handshake_finished .out ⟨.none, hc⟩ hs hssf hsel hb

/-- A dispatched operation is finished in the step that starts it, where nothing is scheduled between and no addressed device stays busy. -/
theorem dispatchIo_finished (i : IoWord) {s : State} (hq : s.Quiet) (hs : s.hold = none) (hb : s.answersBusy i.sc = false) :
    Finished (i.sc.setWidth 4) i.hc (dispatchIo i s) := by
  have hbegin : ioBegin i.sc s = leaveAcknowledged i.sc s := interleave_quiet (s := leaveAcknowledged i.sc s) hq false
  have hnone : (leaveAcknowledged i.sc s).NoneBusy := hb
  unfold dispatchIo
  cases i.op with
  | stf | sfc | clc | sfs | eow | nopLow c | nopHigh c =>
    dsimp only [runIoStf, runIoSfc, runIoClc, runIoSfs, runIoEow, runIoNopLow, runIoNopHigh, endService]
    rw [hbegin]
    exact ioEnd_finished i.hc hs rfl rfl
  | stc | li8 | li16 =>
    dsimp only [runIoStc, runIoLi8, runIoLi16]
    rw [hbegin]
    exact handshake_finished _ ⟨_, i.hc⟩ hs rfl rfl (hnone.congr rfl rfl rfl)
  | ot8 | ot16 =>
    dsimp only [runIoOt8, runIoOt16]
    rw [hbegin]
    refine offer_finished _ i.hc ?_ ?_ ?_ (hnone.congr ?_ ?_ ?_) <;> simp [hs]

/-- The fields of `Q` at their default positions lie in its low sixteen bits, whatever its width (R26, D13). -/
theorem State.fields_of_default {s : State} (h : s.DefaultFields) :
    s.qIoe = s.regs.q.bit 10 ∧ s.holdClear = s.regs.q.bit 9 ∧ s.qIoop = s.regs.q.word.extractLsb' 5 4 ∧
      s.qSc = s.regs.q.word.extractLsb' 0 5 := by
  have hlow : ∀ i n, i + n ≤ 16 → s.regs.q.word.extractLsb' i n = s.regs.q.val.extractLsb' i n := fun i n hin =>
    BitVec.extractLsb'_setWidth_of_le hin
  rw [hlow 5 4 (by decide), hlow 0 5 (by decide), State.qIoe, State.holdClear, State.qIoop, State.qSc, h]
  exact ⟨rfl, rfl, rfl, rfl⟩

theorem State.ioWord_of_default {s : State} (h : s.DefaultFields) : s.ioWord = decodeIoq s.regs.q.word := by
  obtain ⟨hioe, hhc, hop, hsc⟩ := State.fields_of_default h
  rw [State.ioWord_eq, decodeIoq_eq, hioe, hhc, hop, hsc, BitReg.getLsbD_word, BitReg.getLsbD_word]
  rfl

/-- The I/O start runs the row `Q` holds (R98, R161). -/
theorem exec_rIos_of_default {s : State} (h : s.DefaultFields) : exec .rIos s = exec (decodeQ s.regs.q.word) s := by
  have hword := State.ioWord_of_default h
  cases hq : decodeIoq s.regs.q.word with
  | some i => rw [exec_rIos_of_some (hword.trans hq), decodeQ_of_decodeIoq hq]
  | none =>
    rw [exec_rIos_of_none (hword.trans hq), decodeQ, hq]
    rfl

/-- Settles O18: `Q.IOE` decides between the dispatch and the acknowledge; a dispatched operation ends in `dispatchIo_finished`. -/
theorem ioStartDispatchesTheQualifierRegister : Obligations.IoStartDispatchesTheQualifierRegister := by
  unfold Obligations.IoStartDispatchesTheQualifierRegister
  intro s
  have hword := s.ioWord_eq
  refine ⟨fun hioe hreq => ?_, fun hioe hreq => ?_, fun hioe hq hs hb => ?_, fun hioe hop => ?_, fun hfields => ?_⟩
  · rw [hioe] at hword
    rw [exec_rIos_of_none hword, runIoAck, hreq]; rfl
  · rw [hioe] at hword
    exact ⟨_, exec_rIos_of_none hword, rfl, by rw [runIoAck, hreq]; rfl⟩
  · rw [hioe] at hword
    obtain ⟨hhold, hssf, hsel, hrdy⟩ := dispatchIo_finished ⟨IoOp.ofCode s.qIoop, s.qSc, s.holdClear⟩ hq hs hb
    exact ⟨_, (exec_rIos_of_some hword).trans (exec_toInstr _ s), hhold, hssf, hsel, hrdy⟩
  · rw [hioe, hop] at hword
    exact exec_rIos_of_some hword
  · exact ⟨exec_rIos_of_default hfields, State.fields_of_default hfields⟩

end Sys2Proof.Machine
end

section
/-! SUPPORT. The cycle of a word without the I/O start up to its shift loop (spec/42_engine_cycle.md R191 to R201): which register drives
which bus, which one receives the computation bus, and what else the loop starts from. -/

namespace Sys2Proof.Machine

/-! ### What the operations of a word claim (R141 to R169) -/

/-- The register an accumulator operation names while `AB` stands so (R21, R22). -/
def accOf (ab : Bool) : RegName :=
  if ab then .B else .A

/-- The register an S-op puts on the destination bus (R143 to R146). -/
def sSource (ab : Bool) : SOp → Option RegName
  | .zero => none
  | .m => some .M
  | .t => some .T
  | .acc => some (accOf ab)

/-- The register an R-op puts on the source bus (R147 to R154, R160 to R162). -/
def rSource (ab : Bool) : ROp → Option RegName
  | .zero | .unit | .unitx | .ios | .wtm => none
  | .p => some .P
  | .tre | .e => some .E
  | .q => some .Q
  | .rdm => some .T
  | .acc => some (accOf ab)

/-- What an R-op drives the source bus with: its register or the unit constant (R150, R160). -/
def rDriver (ab : Bool) (op : ROp) : Option Driver :=
  if op = .unit ∨ op = .unitx then some .unit else (rSource ab op).map .reg

/-- The register an X-op gives the computation bus to (R155 to R159, R164). -/
def xTarget (ab : Bool) : XOp → Option RegName
  | .none | .qb | .dec | .cab => none
  | .p => some .P
  | .q => some .Q
  | .acc => some (accOf ab)
  | .e => some .E

theorem State.accName_eq (s : State) : s.accName = accOf s.ab := rfl

theorem State.acc_reg (s : State) : s.acc = s.regs.reg (accOf s.ab) := by
  unfold State.acc accOf; split <;> rfl

/-- A write of the accumulator, register by register. -/
theorem State.setAcc_reg_same {s : State} {n : RegName} (h : accOf s.ab = n) (r : BitReg) : (s.setAcc r).regs.reg n = r := by
  subst h; unfold State.setAcc accOf; cases s.ab <;> rfl
theorem State.setAcc_reg_other {s : State} {n : RegName} (h : accOf s.ab ≠ n) (r : BitReg) :
    (s.setAcc r).regs.reg n = s.regs.reg n := by
  cases hab : s.ab <;> cases n <;> simp_all [State.setAcc, accOf, Regs.reg]

@[simp] theorem State.setAcc_iorByte (s : State) (r : BitReg) : (s.setAcc r).regs.iorByte = s.regs.iorByte := by
  unfold State.setAcc; split <;> rfl

/-- Step 3, the S-op: the register it claims shifts (R143 to R146). -/
theorem runS_reg (op : SOp) (s : State) (n : RegName) :
    (runS op s).regs.reg n = if sSource s.ab op = some n then (s.regs.reg n).enable else s.regs.reg n := by
  cases op with
  | acc =>
    by_cases hn : accOf s.ab = n
    · rw [sSource, if_pos (congrArg some hn), ← hn, ← State.acc_reg]
      exact State.setAcc_reg_same (s := s.driveS _) rfl _
    · rw [sSource, if_neg (fun h => hn (Option.some.inj h))]
      exact State.setAcc_reg_other (s := s.driveS _) hn _
  | _ => cases n <;> rfl

theorem runS_sbus (op : SOp) (s : State) :
    (runS op s).buses = if op = .zero then s.buses else { s.buses with sbus := (sSource s.ab op).map .reg } := by
  cases op <;> simp [runS, runSZero, runSM, runST, runSAcc, sSource, State.accName_eq]

/-- Step 3, the R-op: what `R_RDM` loads, what `R_TRE` binds, and the registers that shift (R147 to R154, R160, R162). -/
theorem runR_reg {op : ROp} (h : op ≠ .ios) (s : State) (n : RegName) :
    (runR op s).regs.reg n =
      let loaded := if op = .rdm ∧ n = .T then (s.regs.reg n).load (s.memRead s.regs.m.word) else s.regs.reg n
      let bound := if op = .tre ∧ n = .E then loaded.setSource (.reg .T) else loaded
      if rSource s.ab op = some n ∨ (op = .tre ∧ n = .T) then bound.enable else bound := by
  cases op with
  | ios => exact absurd rfl h
  | acc =>
    by_cases hn : accOf s.ab = n
    · rw [rSource, if_pos (.inl (congrArg some hn)), ← hn]
      exact (State.setAcc_reg_same (s := s.driveR _) rfl _).trans (congrArg BitReg.enable s.acc_reg)
    · rw [rSource, if_neg (by simp [hn])]
      exact State.setAcc_reg_other (s := s.driveR _) hn _
  | wtm => simp [runR, runRWtm, rSource]
  | _ => cases n <;> rfl

theorem runR_buses {op : ROp} (h : op ≠ .ios) (s : State) :
    (runR op s).buses = if rDriver s.ab op = none then s.buses else { s.buses with rbus := rDriver s.ab op } := by
  cases op <;>
    simp_all [runR, runRZero, runRUnit, runRUnitx, runRP, runRTre, runRE, runRQ, runRRdm, runRWtm, runRAcc, driveUnit, rDriver,
      rSource, State.accName_eq]

theorem runR_cyc {op : ROp} (h : op ≠ .ios) (s : State) :
    (runR op s).cyc = if op = .unit ∨ op = .unitx then { s.cyc with unitf := true } else s.cyc := by
  cases op <;>
    simp_all [runR, runRZero, runRUnit, runRUnitx, runRP, runRTre, runRE, runRQ, runRRdm, runRWtm, runRAcc, driveUnit]

theorem runR_bc {op : ROp} (h : op ≠ .ios) (s : State) : (runR op s).bc = s.bc := by
  cases op <;> simp_all [runR, runRZero, runRUnit, runRUnitx, runRP, runRTre, runRE, runRQ, runRRdm, runRWtm, runRAcc]

/-- Step 4 (R167, R168, R194). -/
theorem armTargets_reg (e : Entry) (s : State) (n : RegName) :
    (armTargets e s).regs.reg n =
      if n = .T ∧ e.ttt = true ∨ n = .M ∧ e.ttm = true then (s.regs.reg n).arm else s.regs.reg n := by
  unfold armTargets
  cases e.ttt <;> cases e.ttm <;> cases n <;> rfl

/-- Step 5: the register an X-op gives the computation bus to (R155 to R166, R195). -/
theorem runX_reg (op : XOp) (s : State) (n : RegName) :
    (runX op s).regs.reg n = if xTarget s.ab op = some n then (s.regs.reg n).arm else s.regs.reg n := by
  cases op with
  | acc =>
    by_cases hn : accOf s.ab = n
    · rw [xTarget, if_pos (congrArg some hn), ← hn, ← State.acc_reg]
      exact State.setAcc_reg_same rfl _
    · rw [xTarget, if_neg (fun h => hn (Option.some.inj h))]
      exact State.setAcc_reg_other hn _
  | _ => cases n <;> rfl

theorem runX_ab (op : XOp) (s : State) : (runX op s).ab = if op = .cab then !s.ab else s.ab := by
  cases op <;> simp [runX, runXNone, runXP, runXQ, runXAcc, runXE, runXDec, runXCab]

theorem runX_cyc (op : XOp) (s : State) : (runX op s).cyc = if op = .dec then { s.cyc with dm := true } else s.cyc := by
  cases op <;> simp [runX, runXNone, runXP, runXQ, runXAcc, runXE, runXDec, runXCab]

/-- Only the I/O operations move `IOR.byte` (R267 to R271). -/
theorem runS_iorByte (op : SOp) (s : State) : (runS op s).regs.iorByte = s.regs.iorByte := by
  cases op <;> simp [runS, runSZero, runSM, runST, runSAcc]
theorem runR_iorByte {op : ROp} (h : op ≠ .ios) (s : State) : (runR op s).regs.iorByte = s.regs.iorByte := by
  cases op <;>
    simp_all [runR, runRZero, runRUnit, runRUnitx, runRP, runRTre, runRE, runRQ, runRRdm, runRWtm, runRAcc]
theorem armTargets_iorByte (e : Entry) (s : State) : (armTargets e s).regs.iorByte = s.regs.iorByte := by
  unfold armTargets; cases e.ttt <;> cases e.ttm <;> rfl
theorem runX_iorByte (op : XOp) (s : State) : (runX op s).regs.iorByte = s.regs.iorByte := by
  cases op <;> simp [runX, runXNone, runXP, runXQ, runXAcc, runXE, runXDec, runXCab]

/-! ### The conditions a test reads (R203, R204) -/

/-- A condition reads the address, the registers' bits, the flip-flops, the arbiter and the layout of `Q`, and nothing else. -/
theorem State.condition_congr {s t : State} (hcsa : t.csa = s.csa) (hreg : ∀ n i, t.regs.bit i n = s.regs.bit i n) (hab : t.ab = s.ab)
    (hbc : t.bc = s.bc) (hdc : t.dc = s.dc) (harb : t.arb = s.arb) (hcfg : t.cfg = s.cfg) (q : Qualifier) :
    t.condition q = s.condition q := by
  have hacc : ∀ i, t.acc.bit i = s.acc.bit i := fun i => by
    rw [State.acc_reg, State.acc_reg, hab, ← Regs.bit_reg, ← Regs.bit_reg, hreg]
  induction q with
  | qb => simp only [State.condition, hcfg]; exact hreg .Q _
  | serviceRequested => simp only [State.condition, State.serviceRequested, harb]
  | not x ih => simp only [State.condition, ih]
  | and x y ihx ihy | or x y ihx ihy => simp only [State.condition, ihx, ihy]
  | _ => simp only [State.condition, hcsa, hreg, hacc, hab, hbc, hdc, harb]

/-- The test of the selected condition, under the same readings. -/
theorem State.qual_qsel_congr {s t : State} (hcsa : t.csa = s.csa) (hreg : ∀ n i, t.regs.bit i n = s.regs.bit i n)
    (hab : t.ab = s.ab) (hbc : t.bc = s.bc) (hdc : t.dc = s.dc) (harb : t.arb = s.arb) (hcfg : t.cfg = s.cfg) :
    t.qual t.qsel = s.qual s.qsel := by
  have hcond := State.condition_congr hcsa hreg hab hbc hdc harb hcfg
  have hsel : t.qsel = s.qsel := by simp only [State.qsel, hcond, hcfg]
  simp only [State.qual, hsel, hcond, hcfg]

/-- The transients of a cycle are no condition (R33, R204). -/
theorem State.qual_qsel_cyc (s : State) (c : Cycle) : { s with cyc := c }.qual { s with cyc := c }.qsel = s.qual s.qsel :=
  State.qual_qsel_congr (s := s) (t := { s with cyc := c }) rfl (fun _ _ => rfl) rfl rfl rfl rfl rfl

theorem sampleQual_quiet {s : State} (h : s.Quiet) : sampleQual s = s := by
  unfold sampleQual; split
  · exact interleave_quiet h false
  · rfl

/-- Where nothing is scheduled the inhibit flag tests the state as it is (R200). -/
theorem runIqn_quiet {s : State} (h : s.Quiet) :
    runIqn s = if s.qual s.qsel then s else { s with cyc := { s.cyc with trip := 0 } } := by
  rw [runIqn, sampleQual_quiet h]

theorem runIqn_runs {s : State} (h : s.Quiet) (ht : s.qual s.qsel = true) : runIqn s = s := by
  rw [runIqn_quiet h, if_pos ht]

theorem runIqn_quiet_arb {s : State} (h : s.Quiet) : (runIqn s).arb = s.arb ∧ (runIqn s).ext = s.ext := by
  rw [runIqn_quiet h]; split <;> exact ⟨rfl, rfl⟩

theorem runBrq_quiet_arb {s : State} (h : s.Quiet) : (runBrq s).arb = s.arb ∧ (runBrq s).ext = s.ext := by
  rw [runBrq, sampleQual_quiet h]; exact ⟨rfl, rfl⟩

/-- Other agents take transitions from the schedule and leave the answers and the log of the devices (R349). -/
theorem sampleQual_devices (s : State) :
    (sampleQual s).ext.answers = s.ext.answers ∧ (sampleQual s).ext.calls = s.ext.calls := by
  unfold sampleQual; split
  · rw [interleave_inside]; exact ⟨rfl, rfl⟩
  · exact ⟨rfl, rfl⟩

theorem runIqn_devices (s : State) : (runIqn s).ext.answers = s.ext.answers ∧ (runIqn s).ext.calls = s.ext.calls := by
  unfold runIqn; dsimp only; split <;> exact sampleQual_devices s

/-- The tests write one transient each: the count of pulses, the branch. -/
theorem runIqn_cyc (s : State) : (runIqn s).cyc = { s.cyc with trip := (runIqn s).cyc.trip } := by
  unfold runIqn; dsimp only; split <;> simp
theorem runBrq_cyc (s : State) : (runBrq s).cyc = { s.cyc with brt := (runBrq s).cyc.brt } := by
  simp [runBrq]

/-- A test that is not made, or is made where nothing is scheduled, lets no other agent act. -/
theorem tripCount_quiet {e : Entry} {s : State} (h : s.Quiet ∨ e.iqn = false) :
    (tripCount e s).arb = s.arb ∧ (tripCount e s).ext = s.ext := by
  unfold tripCount; dsimp only
  split
  · next hi => exact runIqn_quiet_arb (h.resolve_right (by simp [hi]))
  · exact ⟨rfl, rfl⟩

theorem tripCount_devices (e : Entry) (s : State) :
    (tripCount e s).ext.answers = s.ext.answers ∧ (tripCount e s).ext.calls = s.ext.calls := by
  unfold tripCount; dsimp only
  split
  · exact runIqn_devices _
  · exact ⟨rfl, rfl⟩

theorem tripCount_cyc (e : Entry) (s : State) : (tripCount e s).cyc = { s.cyc with trip := (tripCount e s).cyc.trip } := by
  unfold tripCount; dsimp only
  split
  · exact runIqn_cyc _
  · rfl

/-- The count of a word without the I/O start whose loop no qualifier inhibits (R200). -/
theorem tripCount_trip {e : Entry} {s : State} (hop : e.rop ≠ .ios)
    (h : e.iqn = true → s.Quiet ∧ s.qual s.qsel = true) : (tripCount e s).cyc.trip = e.sc.toNat + 1 := by
  unfold tripCount
  simp only [beq_false_of_ne hop, Bool.false_and, Bool.false_eq_true, if_false]
  split
  · next hi =>
    obtain ⟨hq, ht⟩ := h hi
    refine congrArg (·.cyc.trip) (runIqn_runs (s := { s with cyc := { s.cyc with trip := e.sc.toNat + 1 } }) hq ?_)
    exact (State.qual_qsel_cyc s _).trans ht
  · rfl

/-! ### The state at step 8 (R191 to R201) -/

/-- The state after steps 1 to 6. -/
def afterSetup (e : Entry) (s : State) : State :=
  runX e.xop (armTargets e (cycleFront e s))

/-- The state the shift loop starts from. -/
def loopStart (e : Entry) (s : State) : State :=
  aluInit (tripCount e (afterSetup e s))

/-- A word without the I/O start: steps 1 to 8, the loop, steps 10 to 12. -/
theorem runMi_eq {e : Entry} (hop : e.rop ≠ .ios) {s : State} (hs : s.hold = none) :
    runMi e s =
      endCycle (nextAddress e (decimalCommit e.aop (shiftLoop e (loopStart e s).cyc.trip (loopStart e s)))) :=
  runMi_plain hop hs

/-- Whether a word makes a register shift as a driver of a bus: the register of its S-op, that of its R-op, and `T` under `R_TRE`. -/
abbrev Drives (e : Entry) (ab : Bool) (n : RegName) : Prop :=
  sSource ab e.sop = some n ∨ rSource ab e.rop = some n ∨ e.rop = .tre ∧ n = .T

/-- Whether a word makes a register receive the computation bus. -/
abbrev Feeds (e : Entry) (ab : Bool) (n : RegName) : Prop :=
  xTarget ab e.xop = some n ∨ n = .T ∧ e.ttt = true ∨ n = .M ∧ e.ttm = true

/-- What a register that is not fed shifts in: its own low bit, and under `R_TRE` the low bit of `T` into `E` (R152). -/
def ownSource (e : Entry) (n : RegName) : Source :=
  if e.rop = .tre ∧ n = .E then .reg .T else .reg n

theorem Regs.off_reg {r : Regs} (h : r.Off) (n : RegName) : (r.reg n).src = .reg n ∧ (r.reg n).en = false := by
  obtain ⟨ha, hb, ht, hm, hp, hq, he, hior, haux⟩ := h
  cases n <;> assumption

theorem State.atStepSeven_reg (s : State) (e : Entry) (n : RegName) :
    (s.atStepSeven e).regs.reg n =
      if e.rop = .rdm ∧ n = .T then (s.regs.reg n).load (s.memRead s.regs.m.word) else s.regs.reg n := by
  unfold State.atStepSeven
  by_cases h : e.rop = .rdm
  · cases n <;> simp [h, Regs.reg]
  · simp [h]

/-- A register with another binding (R121, R122). -/
def BitReg.wire (src : Source) (en : Bool) (r : BitReg) : BitReg :=
  { r with src := src, en := en }

@[simp] theorem BitReg.wire_enable (src : Source) (en : Bool) (r : BitReg) : (r.wire src en).enable = r.wire src true := rfl
@[simp] theorem BitReg.wire_arm (src : Source) (en : Bool) (r : BitReg) : (r.wire src en).arm = r.wire .tbus true := rfl
theorem BitReg.ite_enable_wire (c : Prop) [Decidable c] (src : Source) (en : Bool) (r : BitReg) :
    (if c then (r.wire src en).enable else r.wire src en) = r.wire src (decide c || en) := by
  split <;> simp [*]
theorem BitReg.ite_arm_wire (c : Prop) [Decidable c] (src : Source) (en : Bool) (r : BitReg) :
    (if c then (r.wire src en).arm else r.wire src en) = r.wire (if c then .tbus else src) (decide c || en) := by
  split <;> simp [*]
theorem BitReg.ite_setSource_wire (c : Prop) [Decidable c] (src x : Source) (en : Bool) (r : BitReg) :
    (if c then (r.wire src en).setSource x else r.wire src en) = r.wire (if c then x else src) en := by
  split <;> rfl
theorem BitReg.ite_load_wire (c : Prop) [Decidable c] {w : Nat} (v : BitVec w) (src : Source) (en : Bool) (r : BitReg) :
    (if c then (r.wire src en).load v else r.wire src en) = (if c then r.load v else r).wire src en := by
  split <;> rfl
@[simp] theorem BitReg.wire_wire (x y : Source) (a b : Bool) (r : BitReg) : (r.wire x a).wire y b = r.wire y b := rfl
@[simp] theorem BitReg.wire_width (src : Source) (en : Bool) (r : BitReg) : (r.wire src en).width = r.width := rfl
@[simp] theorem BitReg.wire_bit (src : Source) (en : Bool) (r : BitReg) (i : Nat) : (r.wire src en).bit i = r.bit i := rfl
@[simp] theorem BitReg.wire_word (src : Source) (en : Bool) (r : BitReg) : (r.wire src en).word = r.word := rfl
@[simp] theorem BitReg.wire_nat (src : Source) (en : Bool) (r : BitReg) : (r.wire src en).nat = r.nat := rfl
@[simp] theorem BitReg.wire_src (src : Source) (en : Bool) (r : BitReg) : (r.wire src en).src = src := rfl
@[simp] theorem BitReg.wire_en (src : Source) (en : Bool) (r : BitReg) : (r.wire src en).en = en := rfl

/-- Between two cycles a register is bound to itself and off (R30). -/
theorem Regs.reg_eq_wire {r : Regs} (h : r.Off) (n : RegName) : r.reg n = (r.reg n).wire (.reg n) false := by
  obtain ⟨hsrc, hen⟩ := Regs.off_reg h n
  rw [← hsrc, ← hen]; rfl

section
variable {e : Entry} {s : State}

/-- The registers after step 6: what drives or is fed shifts, everything else is off, as it was (R141, R167, R193 to R195). -/
theorem afterSetup_reg (hop : e.rop ≠ .ios) (hoff : s.regs.Off) (n : RegName) :
    (afterSetup e s).regs.reg n = ((s.atStepSeven e).regs.reg n).wire
      (if Feeds e s.ab n then .tbus else ownSource e n) (decide (Feeds e s.ab n ∨ Drives e s.ab n)) := by
  have hread : (runS e.sop (preload e (beginCycle e s))).memRead (runS e.sop (preload e (beginCycle e s))).regs.m.word =
      s.memRead s.regs.m.word := by
    have hm := runS_reg e.sop (preload e (beginCycle e s)) .M
    simp only [Regs.reg, preload_regs, beginCycle_regs] at hm
    rw [hm]
    simp [State.memRead, apply_ite BitReg.word]
  unfold afterSetup cycleFront ownSource
  rw [runX_reg, armTargets_reg, runR_reg hop, runS_reg, State.atStepSeven_reg, hread]
  simp only [armTargets_ab, runR_ab, runS_ab, preload_ab, beginCycle_ab, preload_regs, beginCycle_regs]
  rw [Regs.reg_eq_wire hoff n]
  simp only [BitReg.ite_enable_wire, BitReg.ite_load_wire, BitReg.ite_setSource_wire, BitReg.ite_arm_wire,
    BitReg.wire_wire]
  congr 1
  · simp only [Feeds, ite_or]
  · simp only [Feeds, Drives, Bool.decide_or, Bool.or_false]
    ac_rfl

theorem preload_rbus (e : Entry) (s : State) : (preload e s).buses.rbus = s.buses.rbus := by
  unfold preload; split <;> rfl
theorem preload_sbus (e : Entry) (s : State) : (preload e s).buses.sbus = s.buses.sbus := by
  unfold preload; split <;> rfl

/-- The drivers after step 3 (R141, R193). -/
theorem afterSetup_rbus (hop : e.rop ≠ .ios) (hbus : s.buses = Buses.idle) : (afterSetup e s).buses.rbus = rDriver s.ab e.rop := by
  simp only [afterSetup, cycleFront, runX_buses, armTargets_buses, runR_buses hop, runS_ab, preload_ab, beginCycle_ab]
  split
  · next h => rw [runS_sbus]; split <;> simp [preload_rbus, hbus, h, Buses.idle]
  · rfl
theorem afterSetup_sbus (hop : e.rop ≠ .ios) (hbus : s.buses = Buses.idle) :
    (afterSetup e s).buses.sbus = (sSource s.ab e.sop).map .reg := by
  have hs : (runS e.sop (preload e (beginCycle e s))).buses.sbus = (sSource s.ab e.sop).map .reg := by
    rw [runS_sbus]
    split
    · next h => simp [preload_sbus, hbus, h, Buses.idle, sSource]
    · simp
  simp only [afterSetup, cycleFront, runX_buses, armTargets_buses, runR_buses hop]
  split <;> exact hs

/-- The transients after step 6: the word, the unit-source flag and the decimal mode (R150, R160, R166). -/
theorem afterSetup_cyc (hop : e.rop ≠ .ios) : (afterSetup e s).cyc = { Cycle.idle with
    ir := some e, unitf := decide (e.rop = .unit ∨ e.rop = .unitx), dm := decide (e.xop = .dec) } := by
  have hbegin : (beginCycle e s).cyc = { Cycle.idle with ir := some e } := rfl
  simp only [afterSetup, cycleFront, runX_cyc, armTargets_cyc, runR_cyc hop, runS_cyc, preload_cyc, hbegin]
  by_cases hu : e.rop = .unit ∨ e.rop = .unitx <;> by_cases hd : e.xop = .dec <;> simp [hu, hd, Cycle.idle]

theorem afterSetup_ab : (afterSetup e s).ab = if e.xop = .cab then !s.ab else s.ab := by
  simp [afterSetup, runX_ab]
theorem afterSetup_bc (hop : e.rop ≠ .ios) : (afterSetup e s).bc = s.bc := by
  simp [afterSetup, cycleFront, runR_bc hop]
theorem afterSetup_arb (hop : e.rop ≠ .ios) : (afterSetup e s).arb = s.arb ∧ (afterSetup e s).ext = s.ext := by
  obtain ⟨harb, hext⟩ := runR_arb hop (runS e.sop (preload e (beginCycle e s)))
  simp [afterSetup, cycleFront, harb, hext]
theorem afterSetup_iorByte (hop : e.rop ≠ .ios) : (afterSetup e s).regs.iorByte = s.regs.iorByte := by
  simp [afterSetup, cycleFront, runX_iorByte, armTargets_iorByte, runR_iorByte hop, runS_iorByte]

theorem loopStart_regs : (loopStart e s).regs = (afterSetup e s).regs := by simp [loopStart]
theorem loopStart_buses : (loopStart e s).buses = (afterSetup e s).buses := by simp [loopStart]
@[simp] theorem loopStart_csa : (loopStart e s).csa = s.csa := by simp [loopStart, afterSetup]
@[simp] theorem loopStart_ab : (loopStart e s).ab = if e.xop = .cab then !s.ab else s.ab := by simp [loopStart, afterSetup_ab]
@[simp] theorem loopStart_dc : (loopStart e s).dc = s.dc := by simp [loopStart, afterSetup]
@[simp] theorem loopStart_cfg : (loopStart e s).cfg = s.cfg := by simp [loopStart, afterSetup]
theorem loopStart_bc (hop : e.rop ≠ .ios) : (loopStart e s).bc = s.bc := by simp [loopStart, afterSetup_bc hop]

/-- The transients the loop starts from: the carry-in of the mode, and no evaluation yet (R201, R221). -/
theorem loopStart_cyc (hop : e.rop ≠ .ios) : (loopStart e s).cyc = { Cycle.idle with
    ir := some e, unitf := decide (e.rop = .unit ∨ e.rop = .unitx), dm := decide (e.xop = .dec)
    cw := if e.xop = .dec then s.dc else s.bc, trip := (loopStart e s).cyc.trip } := by
  have hdc : (afterSetup e s).dc = s.dc := by simp [afterSetup]
  have hcyc := tripCount_cyc e (afterSetup e s)
  have htrip : (loopStart e s).cyc.trip = (tripCount e (afterSetup e s)).cyc.trip := rfl
  rw [afterSetup_cyc hop] at hcyc
  rw [htrip]
  generalize (tripCount e (afterSetup e s)).cyc.trip = n at hcyc
  simp only [loopStart, aluInit, hcyc, tripCount_bc, tripCount_dc, afterSetup_bc hop, hdc, decide_eq_true_eq, Cycle.idle]

/-- The state as the test of step 7 sees it: after step 6, for a word without the I/O start (R147, R158, R200). -/
theorem afterSetup_test (hop : e.rop ≠ .ios) (hoff : s.regs.Off) :
    (afterSetup e s).qual (afterSetup e s).qsel = (s.atStepSeven e).qual (s.atStepSeven e).qsel := by
  obtain ⟨harb, -⟩ := afterSetup_arb (e := e) (s := s) hop
  refine State.qual_qsel_congr ?_ (fun n i => ?_) afterSetup_ab (afterSetup_bc hop) ?_ harb ?_
  · simp [afterSetup, State.atStepSeven]
  · rw [Regs.bit_reg, Regs.bit_reg, afterSetup_reg hop hoff, BitReg.wire_bit]
  · simp [afterSetup, State.atStepSeven]
  · simp [afterSetup, State.atStepSeven]

/-- The loop makes `SC + 1` pulses where no qualifier inhibits it (R200). -/
theorem loopStart_trip (hop : e.rop ≠ .ios) (hoff : s.regs.Off) (hrun : s.loopRuns e) :
    (loopStart e s).cyc.trip = e.sc.toNat + 1 := by
  obtain ⟨-, hext⟩ := afterSetup_arb (e := e) (s := s) hop
  refine tripCount_trip hop fun hi => ?_
  obtain ⟨hq, htest⟩ := hrun hi
  exact ⟨by rw [State.Quiet, hext]; exact hq, (afterSetup_test hop hoff).trans htest⟩

end

end Sys2Proof.Machine
end

section
/-! SUPPORT. The shift loop pulse by pulse and the end of the cycle (spec/42_engine_cycle.md R202 to R212): what stands in a register after
`k` pulses, and what the terminating pass and the commits leave. -/

namespace Sys2Proof.Machine

/-! ### Pulses of the loop (R202, R206) -/

/-- The state after `k` evaluations, each with its pulse. -/
def pulses (e : Entry) (k : Nat) (u : State) : State :=
  (fun v => pulse (aluPass e.alu v))^[k] u

/-- The bit one more evaluation puts on the computation bus (R202). -/
def busBit (e : Entry) (u : State) : Bool :=
  (aluPass e.alu u).buses.tbus

/-- The bit that enters a register at one more pulse: that of its source before the pulse (R125). -/
def inputBit (e : Entry) (u : State) (n : RegName) : Bool :=
  u.regs.sourceBit (busBit e u) (u.regs.reg n).src

section
variable (e : Entry) (k : Nat) (u : State)

@[simp] theorem pulses_zero : pulses e 0 u = u := rfl
theorem pulses_succ : pulses e (k + 1) u = pulse (aluPass e.alu (pulses e k u)) := Function.iterate_succ_apply' _ _ _

/-- What no pulse changes: what every pulse keeps. -/
theorem pulses_keep {α : Type} (f : State → α) (h : ∀ v, f (pulse (aluPass e.alu v)) = f v) : f (pulses e k u) = f u := by
  induction k with
  | zero => rfl
  | succ k ih => rw [pulses_succ, h, ih]

@[simp] theorem pulses_ab : (pulses e k u).ab = u.ab := pulses_keep e k u State.ab fun _ => rfl
@[simp] theorem pulses_bc : (pulses e k u).bc = u.bc := pulses_keep e k u State.bc fun _ => rfl
@[simp] theorem pulses_dc : (pulses e k u).dc = u.dc := pulses_keep e k u State.dc fun _ => rfl
@[simp] theorem pulses_arb : (pulses e k u).arb = u.arb := pulses_keep e k u State.arb fun _ => rfl
@[simp] theorem pulses_ext : (pulses e k u).ext = u.ext := pulses_keep e k u State.ext fun _ => rfl
@[simp] theorem pulses_cfg : (pulses e k u).cfg = u.cfg := pulses_keep e k u State.cfg fun _ => rfl
@[simp] theorem pulses_rbus : (pulses e k u).buses.rbus = u.buses.rbus := pulses_keep e k u (·.buses.rbus) fun _ => rfl
@[simp] theorem pulses_sbus : (pulses e k u).buses.sbus = u.buses.sbus := pulses_keep e k u (·.buses.sbus) fun _ => rfl
@[simp] theorem pulses_dm : (pulses e k u).cyc.dm = u.cyc.dm := pulses_keep e k u (·.cyc.dm) fun _ => rfl
@[simp] theorem pulses_unitf : (pulses e k u).cyc.unitf = u.cyc.unitf := pulses_keep e k u (·.cyc.unitf) fun _ => rfl
@[simp] theorem pulses_iorByte : (pulses e k u).regs.iorByte = u.regs.iorByte :=
  pulses_keep e k u (·.regs.iorByte) fun _ => rfl

/-- `EVN` counts the evaluations (R202). -/
theorem pulses_evn : (pulses e k u).cyc.evn = u.cyc.evn + k := by
  induction k with
  | zero => rfl
  | succ k ih => rw [pulses_succ, ← Nat.add_assoc, ← ih]; rfl

/-- The working carry takes the tentative one where the evaluation updates it (R206, R222). -/
theorem pulses_cw_succ : (pulses e (k + 1) u).cyc.cw =
    if ((pulses e k u).aluEntry e.alu).getLsbD 2 then ((pulses e k u).aluEntry e.alu).getLsbD 1 else (pulses e k u).cyc.cw := by
  rw [pulses_succ]; rfl

theorem pulses_reg_succ (n : RegName) : (pulses e (k + 1) u).regs.reg n =
    (((pulses e k u).regs.reg n).loadInput (inputBit e (pulses e k u) n)).shiftSel ((pulses e k u).regs.byteMode n) := by
  rw [pulses_succ, pulse_regs, aluPass_regs, Regs.pulse_reg]; rfl

/-- No pulse changes a binding or a width (R120, R125). -/
theorem pulses_binding (n : RegName) :
    ((pulses e k u).regs.reg n).src = (u.regs.reg n).src ∧ ((pulses e k u).regs.reg n).en = (u.regs.reg n).en ∧
      ((pulses e k u).regs.reg n).width = (u.regs.reg n).width := by
  induction k with
  | zero => exact ⟨rfl, rfl, rfl⟩
  | succ k ih => rw [pulses_reg_succ]; simpa using ih

variable {e k u}

/-- A register that is off does not move (R123, R206). -/
theorem pulses_off {n : RegName} (h : (u.regs.reg n).en = false) : (pulses e k u).regs.reg n = u.regs.reg n := by
  induction k with
  | zero => rfl
  | succ k ih => rw [pulses_reg_succ, ih, BitReg.loadInput_off h, BitReg.shiftSel_off h]

/-- The bits of an enabled register after `k` pulses: its own old ones, moved down, and above them those that entered (R124, R127). -/
theorem pulses_bit {n : RegName} (hn : n ≠ .IOR) (h : (u.regs.reg n).en = true) {i : Nat} (hi : i < (u.regs.reg n).width) :
    ((pulses e k u).regs.reg n).bit i =
      if i + k < (u.regs.reg n).width then (u.regs.reg n).bit (i + k)
      else inputBit e (pulses e (i + k - (u.regs.reg n).width) u) n := by
  induction k generalizing i with
  | zero => simp [hi]
  | succ k ih =>
    obtain ⟨-, hen, hw⟩ := pulses_binding e k u n
    have hbyte : (pulses e k u).regs.byteMode n = false := by simp [Regs.byteMode, hn]
    rw [pulses_reg_succ, hbyte, BitReg.shiftSel_false, BitReg.pulse_bit (hen.trans h), hw]
    by_cases htop : i + 1 = (u.regs.reg n).width
    · rw [if_pos htop, if_neg (by omega), show i + (k + 1) - (u.regs.reg n).width = k by omega]
    · rw [if_neg htop, ih (by omega), show i + 1 + k = i + (k + 1) by omega]

/-- So its output bit is the next one of its old bits, until all have come out (R127). -/
theorem pulses_outBit {n : RegName} (hn : n ≠ .IOR) (h : (u.regs.reg n).en = true) (hk : k < (u.regs.reg n).width) :
    ((pulses e k u).regs.reg n).bit 0 = (u.regs.reg n).bit k := by
  rw [pulses_bit hn h (by omega), Nat.zero_add, if_pos hk]

/-- The bit that enters, by what the register is bound to. -/
theorem inputBit_tbus {n : RegName} (h : (u.regs.reg n).src = .tbus) : inputBit e (pulses e k u) n = busBit e (pulses e k u) := by
  obtain ⟨hsrc, -, -⟩ := pulses_binding e k u n
  rw [inputBit, hsrc, h]; rfl
theorem Regs.outBit_reg (r : Regs) (n : RegName) : r.outBit n = (r.reg n).bit 0 := by cases n <;> rfl
theorem inputBit_reg {n m : RegName} (h : (u.regs.reg n).src = .reg m) :
    inputBit e (pulses e k u) n = ((pulses e k u).regs.reg m).bit 0 := by
  obtain ⟨hsrc, -, -⟩ := pulses_binding e k u n
  rw [inputBit, hsrc, h, Regs.sourceBit, Regs.outBit_reg]

end

/-! ### The bits on the buses under the reference table (R141, R227) -/

section
variable {e : Entry} {u : State}

/-- The computation bus and the carry under the reference table (R222, R240 to R247). -/
theorem busBit_ref (htbl : u.cfg.aluTable = refAlu) (halu : e.alu = e.aop.code) (k : Nat) :
    busBit e (pulses e k u) =
      refResult e.aop (pulses e k u).rbit (pulses e k u).sbit (pulses e k u).cyc.cw := by
  rw [busBit, halu, aluPass_ref (by rw [pulses_cfg, htbl])]
theorem pulses_cw_ref (htbl : u.cfg.aluTable = refAlu) (halu : e.alu = e.aop.code) (k : Nat) :
    (pulses e (k + 1) u).cyc.cw = if refUpdates e.aop
      then refCarry e.aop (pulses e k u).rbit (pulses e k u).sbit (pulses e k u).cyc.cw else (pulses e k u).cyc.cw := by
  rw [pulses_cw_succ, halu, State.aluEntry_ref (by rw [pulses_cfg, htbl])]
  simp

end

/-! ### The terminating pass and the commits (R205 to R212) -/

theorem Regs.release_reg (r : Regs) (n : RegName) : r.release.reg n = (r.reg n).release n := by cases n <;> rfl

/-- Of the registers the terminating pass writes `Q` alone, under X_QB (R207). -/
theorem terminate_reg {e : Entry} {n : RegName} (h : n ≠ .Q ∨ e.xop ≠ .qb) (s : State) :
    (terminate e s).regs.reg n = s.regs.reg n := by
  have hspecial : ∀ v : State, (specialCase e.xop v).regs.reg n = v.regs.reg n := by
    intro v
    cases hx : e.xop with
    | qb => cases n <;> simp_all [specialCase, runXQb, Regs.reg]
    | _ => rfl
  unfold terminate; dsimp only
  rw [commitCarry_regs, hspecial]
  split
  · rw [runBrq_regs]
  · rfl

theorem terminate_iorByte (e : Entry) (s : State) : (terminate e s).regs.iorByte = s.regs.iorByte := by
  have hspecial : ∀ v : State, (specialCase e.xop v).regs.iorByte = v.regs.iorByte := by intro v; cases e.xop <;> rfl
  unfold terminate; dsimp only
  rw [commitCarry_regs, hspecial]
  split
  · rw [runBrq_regs]
  · rfl

theorem terminate_cyc (e : Entry) (s : State) : (terminate e s).cyc = { s.cyc with brt := (terminate e s).cyc.brt } := by
  unfold terminate; dsimp only
  rw [commitCarry_cyc, specialCase_cyc]
  split
  · exact runBrq_cyc s
  · rfl

/-- The committed carry reads the transients and the rule alone (R208). -/
theorem State.committedCarry_congr {s t : State} (hcfg : t.cfg = s.cfg) (hcw : t.cyc.cw = s.cyc.cw) (hct : t.cyc.ct = s.cyc.ct)
    (hctv : t.cyc.ctv = s.cyc.ctv) : t.committedCarry = s.committedCarry := by
  simp only [State.committedCarry, hcfg, hcw, hct, hctv]

/-- The binary carry after the terminating pass (R205, R208). -/
theorem terminate_bc (e : Entry) (s : State) : (terminate e s).bc = if s.cyc.dm then s.bc else s.committedCarry := by
  have h : ∀ v : State, v.cfg = s.cfg → v.bc = s.bc → v.cyc = { s.cyc with brt := v.cyc.brt } →
      (commitCarry (specialCase e.xop v)).bc = if s.cyc.dm then s.bc else s.committedCarry := by
    intro v hcfg hbc hcyc
    have hc : (specialCase e.xop v).committedCarry = s.committedCarry :=
      State.committedCarry_congr (by simp [hcfg]) (by rw [specialCase_cyc, hcyc]) (by rw [specialCase_cyc, hcyc])
        (by rw [specialCase_cyc, hcyc])
    rw [commitCarry_bc, hc, specialCase_bc, specialCase_cyc, hbc, hcyc]
  unfold terminate; dsimp only
  split
  · exact h _ (by simp) (by simp) (runBrq_cyc s)
  · exact h _ rfl rfl rfl

theorem terminate_quiet {e : Entry} {s : State} (h : s.Quiet ∨ e.brq = false) :
    (terminate e s).arb = s.arb ∧ (terminate e s).ext = s.ext := by
  unfold terminate; dsimp only
  rw [commitCarry_arb, specialCase_arb, commitCarry_ext, specialCase_ext]
  split
  · next hb => exact runBrq_quiet_arb (h.resolve_right (by simp [hb]))
  · exact ⟨rfl, rfl⟩

theorem terminate_devices (e : Entry) (s : State) :
    (terminate e s).ext.answers = s.ext.answers ∧ (terminate e s).ext.calls = s.ext.calls := by
  unfold terminate; dsimp only
  rw [commitCarry_ext, specialCase_ext]
  split
  · exact sampleQual_devices s
  · exact ⟨rfl, rfl⟩

/-- Of the registers step 10 writes the accumulator alone, in decimal mode (R209). -/
theorem decimalCommit_reg {s : State} {n : RegName} (h : s.cyc.dm = false ∨ n ≠ accOf s.ab) (op : AOp) :
    (decimalCommit op s).regs.reg n = s.regs.reg n := by
  by_cases hdm : s.cyc.dm = false
  · rw [decimalCommit_off hdm]
  · have hn := h.resolve_left hdm
    have hdigit : (commitDigit op s).regs.reg n = s.regs.reg n := by
      unfold commitDigit
      split
      · rfl
      · exact State.setAcc_reg_other hn.symm _
    unfold decimalCommit
    split
    · exact hdigit
    · rfl

theorem decimalCommit_iorByte (op : AOp) (s : State) : (decimalCommit op s).regs.iorByte = s.regs.iorByte := by
  unfold decimalCommit commitDigit
  split <;> (try split) <;> simp

/-! ### A whole cycle without the I/O start -/

/-- How many pulses the loop of a word makes (R163, R200, R202). -/
def loopCount (e : Entry) (s : State) : Nat :=
  if e.skip then 0 else (loopStart e s).cyc.trip

/-- The state before the last evaluation. -/
def loopEnd (e : Entry) (s : State) : State :=
  pulses e (loopCount e s) (loopStart e s)

theorem shiftLoop_eq_terminate (e : Entry) (s : State) :
    shiftLoop e (loopStart e s).cyc.trip (loopStart e s) = terminate e (aluPass e.alu (loopEnd e s)) := by
  unfold loopEnd loopCount
  cases h : e.skip
  · exact shiftLoop_pulses h _ _
  · exact shiftLoop_skip h _ _

theorem runMi_eq_terminate {e : Entry} (hop : e.rop ≠ .ios) {s : State} (hs : s.hold = none) :
    runMi e s = endCycle (nextAddress e (decimalCommit e.aop (terminate e (aluPass e.alu (loopEnd e s))))) := by
  rw [runMi_eq hop hs, shiftLoop_eq_terminate]

section
variable {e : Entry} {s : State}

theorem loopEnd_ab : (loopEnd e s).ab = if e.xop = .cab then !s.ab else s.ab := by simp [loopEnd]
@[simp] theorem loopEnd_dc : (loopEnd e s).dc = s.dc := by simp [loopEnd]
@[simp] theorem loopEnd_cfg : (loopEnd e s).cfg = s.cfg := by simp [loopEnd]
@[simp] theorem loopEnd_arb : (loopEnd e s).arb = (tripCount e (afterSetup e s)).arb := by simp [loopEnd, loopStart]
@[simp] theorem loopEnd_ext : (loopEnd e s).ext = (tripCount e (afterSetup e s)).ext := by simp [loopEnd, loopStart]
theorem loopEnd_dm (hop : e.rop ≠ .ios) : (loopEnd e s).cyc.dm = decide (e.xop = .dec) := by
  rw [loopEnd, pulses_dm, loopStart_cyc hop]

/-- What a register holds after the cycle is what it held before the last evaluation, but for the bit of X_QB and the decimal digit
(R207, R209). -/
theorem runMi_reg (hop : e.rop ≠ .ios) (hs : s.hold = none) {n : RegName} (hq : n ≠ .Q ∨ e.xop ≠ .qb)
    (hd : e.xop ≠ .dec ∨ n ≠ accOf s.ab) : (runMi e s).regs.reg n = ((loopEnd e s).regs.reg n).release n := by
  have hdec : (terminate e (aluPass e.alu (loopEnd e s))).cyc.dm = false ∨
      n ≠ accOf (terminate e (aluPass e.alu (loopEnd e s))).ab := by
    have hdm : (aluPass e.alu (loopEnd e s)).cyc.dm = (loopEnd e s).cyc.dm := rfl
    rw [terminate_cyc, terminate_ab, aluPass_ab, loopEnd_ab, hdm, loopEnd_dm hop, decide_eq_false_iff_not]
    by_cases hx : e.xop = .dec
    · exact .inr (by simpa [hx] using hd)
    · exact .inl hx
  rw [runMi_eq_terminate hop hs, endCycle_regs, nextAddress_regs, Regs.release_reg, decimalCommit_reg hdec, terminate_reg hq, aluPass_regs]

/-- A register that the word neither feeds nor drives keeps its value. -/
theorem runMi_nat_kept (hop : e.rop ≠ .ios) (hs : s.AtRest) {n : RegName} (hf : ¬ Feeds e s.ab n) (hdr : ¬ Drives e s.ab n)
    (hq : n ≠ .Q ∨ e.xop ≠ .qb) (hd : e.xop ≠ .dec ∨ n ≠ accOf s.ab) :
    ((runMi e s).regs.reg n).nat = (s.regs.reg n).nat := by
  obtain ⟨hhold, hoff, -, -⟩ := hs
  have hstart := afterSetup_reg hop hoff n
  have hload : ¬ (e.rop = .rdm ∧ n = .T) := fun ⟨hr, hn⟩ => hdr (.inr (.inl (by rw [hr, hn]; rfl)))
  rw [State.atStepSeven_reg, if_neg hload] at hstart
  have hen : ((loopStart e s).regs.reg n).en = false := by rw [loopStart_regs, hstart]; simp [hf, hdr]
  rw [runMi_reg hop hhold hq hd, BitReg.release_nat, loopEnd, pulses_off hen, loopStart_regs, hstart, BitReg.wire_nat]

theorem runMi_ab (hop : e.rop ≠ .ios) (hs : s.hold = none) : (runMi e s).ab = if e.xop = .cab then !s.ab else s.ab := by
  simp [runMi_eq_terminate hop hs, loopEnd_ab]

theorem runMi_dc (hop : e.rop ≠ .ios) (hs : s.hold = none) (hx : e.xop ≠ .dec) : (runMi e s).dc = s.dc := by
  have hdm : (terminate e (aluPass e.alu (loopEnd e s))).cyc.dm = false := by
    rw [terminate_cyc]; exact (loopEnd_dm hop).trans (decide_eq_false hx)
  simp [runMi_eq_terminate hop hs, decimalCommit_off hdm]

/-- The binary carry after the cycle: as it was in decimal mode, else the committed one (R208). -/
theorem runMi_bc (hop : e.rop ≠ .ios) (hs : s.hold = none) :
    (runMi e s).bc = if e.xop = .dec then s.bc else (aluPass e.alu (loopEnd e s)).committedCarry := by
  have hdm : (aluPass e.alu (loopEnd e s)).cyc.dm = decide (e.xop = .dec) := loopEnd_dm hop
  have hbc : (loopEnd e s).bc = s.bc := by rw [loopEnd, pulses_bc, loopStart_bc hop]
  rw [runMi_eq_terminate hop hs, endCycle_bc, nextAddress_bc, decimalCommit_bc, terminate_bc, hdm, aluPass_bc, hbc]
  simp

/-- Under the rule that commits the working carry, it is the carry after the last pulse (R208). -/
theorem runMi_bc_working (hop : e.rop ≠ .ios) (hs : s.hold = none) (hw : s.cfg.carryCommit = .working) (hx : e.xop ≠ .dec) :
    (runMi e s).bc = (loopEnd e s).cyc.cw := by
  rw [runMi_bc hop hs, if_neg hx, State.committedCarry_working (by simp [hw])]; rfl

theorem runMi_iorByte (hop : e.rop ≠ .ios) (hs : s.hold = none) : (runMi e s).regs.iorByte = s.regs.iorByte := by
  rw [runMi_eq_terminate hop hs, endCycle_regs, Regs.release_iorByte, nextAddress_regs, decimalCommit_iorByte, terminate_iorByte,
    aluPass_regs, loopEnd, pulses_iorByte, loopStart_regs, afterSetup_iorByte hop]

/-- Without the I/O start a cycle meets the outside world at its tests alone (R349). -/
theorem runMi_devices (hop : e.rop ≠ .ios) (hs : s.hold = none) :
    (runMi e s).ext.answers = s.ext.answers ∧ (runMi e s).ext.calls = s.ext.calls := by
  obtain ⟨-, hext⟩ := afterSetup_arb (e := e) (s := s) hop
  obtain ⟨hans, hcalls⟩ := tripCount_devices e (afterSetup e s)
  obtain ⟨kans, kcalls⟩ := terminate_devices e (aluPass e.alu (loopEnd e s))
  simp [runMi_eq_terminate hop hs, kans, kcalls, hans, hcalls, hext]

theorem runMi_quiet (hop : e.rop ≠ .ios) (hs : s.hold = none) (h : s.Quiet ∨ e.brq = false ∧ e.iqn = false) :
    (runMi e s).arb = s.arb ∧ (runMi e s).ext = s.ext := by
  obtain ⟨harb, hext⟩ := afterSetup_arb (e := e) (s := s) hop
  have hset : (afterSetup e s).Quiet ∨ e.iqn = false := h.imp (fun hq => by rw [State.Quiet, hext]; exact hq) (·.2)
  obtain ⟨tarb, text⟩ := tripCount_quiet hset
  have hend : (aluPass e.alu (loopEnd e s)).arb = s.arb ∧ (aluPass e.alu (loopEnd e s)).ext = s.ext := by
    simp [tarb, text, harb, hext]
  obtain ⟨karb, kext⟩ := terminate_quiet (e := e) (s := aluPass e.alu (loopEnd e s))
    (h.imp (fun hq => by rw [State.Quiet, hend.2]; exact hq) (·.1))
  rw [runMi_eq_terminate hop hs, endCycle_arb, nextAddress_arb, decimalCommit_arb, endCycle_ext, nextAddress_ext, decimalCommit_ext]
  exact ⟨karb.trans hend.1, kext.trans hend.2⟩

end

/-! ### What a word names -/

theorem sSource_eq_some {ab : Bool} {op : SOp} {n : RegName} :
    sSource ab op = some n ↔ op = .m ∧ n = .M ∨ op = .t ∧ n = .T ∨ op = .acc ∧ n = accOf ab := by
  cases op <;> simp [sSource, eq_comm]
theorem rSource_eq_some {ab : Bool} {op : ROp} {n : RegName} :
    rSource ab op = some n ↔ op = .p ∧ n = .P ∨ (op = .tre ∨ op = .e) ∧ n = .E ∨ op = .q ∧ n = .Q ∨ op = .rdm ∧ n = .T ∨
      op = .acc ∧ n = accOf ab := by
  cases op <;> simp [rSource, eq_comm]
theorem xTarget_eq_some {ab : Bool} {op : XOp} {n : RegName} :
    xTarget ab op = some n ↔ op = .p ∧ n = .P ∨ op = .q ∧ n = .Q ∨ op = .acc ∧ n = accOf ab ∨ op = .e ∧ n = .E := by
  cases op <;> simp [xTarget, eq_comm]

/-- The accumulators are `A` and `B`. -/
theorem ne_accOf {ab : Bool} {n : RegName} (ha : n ≠ .A) (hb : n ≠ .B) : n ≠ accOf ab := by
  cases ab
  · exact ha
  · exact hb

end Sys2Proof.Machine
end

section
/-! SUPPORT. Proofs of the family of spec/41_bus_operations.md, whole control words: the frame of a word without the I/O start (R141 to R169,
R207 to R209), storage through a cycle (R147, R148), and the forms that move a register (R144 to R157, R242). -/

namespace Sys2Proof.Machine

/-! ### The frame of a word (R141 to R169, R349) -/

/-- The logical A-ops leave the working carry through the whole loop (R229). -/
theorem pulses_cw_of_not_updates {e : Entry} {u : State} (htbl : u.cfg.aluTable = refAlu) (halu : e.alu = e.aop.code)
    (h : refUpdates e.aop = false) (k : Nat) : (pulses e k u).cyc.cw = u.cyc.cw := by
  induction k with
  | zero => rfl
  | succ k ih => rw [pulses_cw_ref htbl halu, h, if_neg (by decide), ih]

/-- So they leave `BC` too (R208). -/
theorem runMi_bc_of_not_updates {e : Entry} {s : State} (hop : e.rop ≠ .ios) (hs : s.hold = none) (href : s.ReferenceAlu)
    (hwf : e.wf = true) (h : refUpdates e.aop = false) : (runMi e s).bc = s.bc := by
  obtain ⟨htbl, hrule⟩ := href
  by_cases hx : e.xop = .dec
  · rw [runMi_bc hop hs, if_pos hx]
  · rw [runMi_bc_working hop hs hrule hx, loopEnd,
      pulses_cw_of_not_updates (by rw [loopStart_cfg, htbl]) (Entry.alu_of_wf hwf) h, loopStart_cyc hop, if_neg hx]

/-- `R_WTM` alone writes storage (R148). -/
theorem runMi_mem_of_not_wtm {e : Entry} (h : e.rop ≠ .wtm) (s : State) : (runMi e s).mem = s.mem := by
  rw [runMi_mem, if_neg h]

/-- An accumulator that is not selected, or that no operation of the word names, keeps its value. -/
theorem runMi_accumulator_kept {e : Entry} {s : State} (hop : e.rop ≠ .ios) (hs : s.AtRest) {n : RegName} (hn : n = .A ∨ n = .B)
    (h : n ≠ accOf s.ab ∨ (e.sop ≠ .acc ∧ e.rop ≠ .acc ∧ e.xop ≠ .acc ∧ e.xop ≠ .dec)) :
    ((runMi e s).regs.reg n).nat = (s.regs.reg n).nat := by
  have hfree : ¬ Feeds e s.ab n ∧ ¬ Drives e s.ab n := by
    rcases hn with rfl | rfl <;> rcases h with h | ⟨h1, h2, h3, -⟩ <;>
      simp_all [Feeds, Drives, sSource_eq_some, rSource_eq_some, xTarget_eq_some]
  exact runMi_nat_kept hop hs hfree.1 hfree.2 (.inl (by rcases hn with rfl | rfl <;> decide))
    (h.elim .inr fun h => .inl h.2.2.2)

/-- Settles O30: a register that no operation or flag names is neither fed nor driven. -/
theorem controlWordFrame : Obligations.ControlWordFrame := by
  unfold Obligations.ControlWordFrame
  intro s e hs hop
  have hhold := hs.1
  have keep : ∀ n, n ≠ .A → n ≠ .B → n ≠ .Q → ¬ Feeds e s.ab n → ¬ Drives e s.ab n →
      ((runMi e s).regs.reg n).nat = (s.regs.reg n).nat := fun n ha hb hq hf hd =>
    runMi_nat_kept hop hs hf hd (.inl hq) (.inr (ne_accOf ha hb))
  obtain ⟨hans, hcalls⟩ := runMi_devices hop hhold
  refine ⟨runMi e s, rfl, fun h1 h2 => ?_, fun h1 h2 => ?_, fun h1 h2 h3 => ?_, fun h1 h2 h3 h4 => ?_, fun h1 h2 h3 => ?_, ?_, ?_,
    runMi_iorByte hop hhold, fun h => ?_, fun h => ?_, runMi_ab hop hhold, fun hx => runMi_dc hop hhold hx,
    fun hx => by rw [runMi_bc hop hhold, if_pos hx], fun href hwf hlog => ?_, fun hw => runMi_mem_of_not_wtm hw s,
    fun a ha => runMi_get e s (.inr ha), runMi_sameConfiguration e s, hans, hcalls, runMi_quiet hop hhold⟩
  · exact keep .P (by decide) (by decide) (by decide)
      (by simp [Feeds, xTarget_eq_some, h2, ne_accOf]) (by simp [Drives, sSource_eq_some, rSource_eq_some, h1, ne_accOf])
  · exact keep .M (by decide) (by decide) (by decide)
      (by simp [Feeds, xTarget_eq_some, h2, ne_accOf]) (by simp [Drives, sSource_eq_some, rSource_eq_some, h1, ne_accOf])
  · exact keep .E (by decide) (by decide) (by decide)
      (by simp [Feeds, xTarget_eq_some, h3, ne_accOf]) (by simp [Drives, sSource_eq_some, rSource_eq_some, h1, h2, ne_accOf])
  · exact keep .T (by decide) (by decide) (by decide)
      (by simp [Feeds, xTarget_eq_some, h4, ne_accOf]) (by simp [Drives, sSource_eq_some, rSource_eq_some, h1, h2, h3, ne_accOf])
  · exact runMi_nat_kept hop hs (n := .Q) (by simp [Feeds, xTarget_eq_some, h2, ne_accOf])
      (by simp [Drives, sSource_eq_some, rSource_eq_some, h1, ne_accOf]) (.inr h3) (.inr (ne_accOf (by decide) (by decide)))
  · exact keep .IOR (by decide) (by decide) (by decide)
      (by simp [Feeds, xTarget_eq_some, ne_accOf]) (by simp [Drives, sSource_eq_some, rSource_eq_some, ne_accOf])
  · exact keep .AUX (by decide) (by decide) (by decide)
      (by simp [Feeds, xTarget_eq_some, ne_accOf]) (by simp [Drives, sSource_eq_some, rSource_eq_some, ne_accOf])
  · exact runMi_accumulator_kept hop hs (.inl rfl) (h.imp (fun hab => by rw [hab]; decide) id)
  · exact runMi_accumulator_kept hop hs (.inr rfl) (h.imp (fun hab => by rw [hab]; decide) id)
  · exact runMi_bc_of_not_updates hop hhold href hwf (by rcases hlog with h | h | h | h <;> rw [h] <;> rfl)

/-! ### Registers through a whole loop (R124, R127, R202) -/

/-- A rotation by at most the width, bit by bit. -/
theorem getLsbD_rotateRight_of_le {w : Nat} (v : BitVec w) {k i : Nat} (hk : k ≤ w) (hi : i < w) :
    (v.rotateRight k).getLsbD i = if i + k < w then v.getLsbD (i + k) else v.getLsbD (i + k - w) := by
  rw [BitVec.getLsbD_rotateRight]
  rcases Nat.lt_or_eq_of_le hk with hlt | rfl
  · rw [Nat.mod_eq_of_lt hlt, Nat.add_comm k i]
    by_cases hlow : i + k < w
    · simp [hlow, show i < w - k by omega]
    · simp [hlow, hi, show ¬ i < w - k by omega, show i - (w - k) = i + k - w by omega]
  · simp [hi]

theorem loopStart_reg {e : Entry} {s : State} (hop : e.rop ≠ .ios) (hoff : s.regs.Off) (n : RegName) :
    (loopStart e s).regs.reg n = ((s.atStepSeven e).regs.reg n).wire
      (if Feeds e s.ab n then .tbus else ownSource e n) (decide (Feeds e s.ab n ∨ Drives e s.ab n)) := by
  rw [loopStart_regs, afterSetup_reg hop hoff]

/-- A word without the I/O start, begun between two cycles, whose loop makes all its `SC + 1` pulses over registers of the default
widths. -/
structure PlainRun (e : Entry) (s : State) : Prop where
  plain : e.rop ≠ .ios
  rest : s.AtRest
  widths : s.DefaultWidths
  runs : s.loopRuns e
  skip : e.skip = false

/-- The state after `j` pulses of the word's loop. -/
def loopAt (e : Entry) (s : State) (j : Nat) : State :=
  pulses e j (loopStart e s)

/-- A register as the loop finds it: `R_RDM` has loaded `T` (R147). -/
def startReg (e : Entry) (s : State) (n : RegName) : BitReg :=
  (s.atStepSeven e).regs.reg n

theorem startReg_of_not_rdm {e : Entry} (h : e.rop ≠ .rdm) (s : State) (n : RegName) : startReg e s n = s.regs.reg n := by
  rw [startReg, State.atStepSeven_reg, if_neg fun hc => h hc.1]

namespace PlainRun
variable {e : Entry} {s : State} (h : PlainRun e s)
include h

theorem hold : s.hold = none := h.rest.1
theorem off : s.regs.Off := h.rest.2.1
theorem buses : s.buses = Buses.idle := h.rest.2.2.1

theorem startReg_width (n : RegName) : (startReg e s n).width = defaultWidths.of n := by
  have hw : (s.regs.reg n).width = defaultWidths.of n := by rw [← Regs.widths_reg, h.widths]
  rw [startReg, State.atStepSeven_reg]
  split
  · exact hw
  · exact hw

theorem loopStart_width (n : RegName) : ((loopStart e s).regs.reg n).width = defaultWidths.of n := by
  rw [loopStart_reg h.plain h.off, BitReg.wire_width]
  exact h.startReg_width n

theorem loopStart_bit (n : RegName) (i : Nat) : ((loopStart e s).regs.reg n).bit i = (startReg e s n).bit i := by
  rw [loopStart_reg h.plain h.off]; rfl

theorem loopStart_en {n : RegName} (hn : Feeds e s.ab n ∨ Drives e s.ab n) : ((loopStart e s).regs.reg n).en = true := by
  rw [loopStart_reg h.plain h.off]; exact decide_eq_true hn

theorem loopEnd_eq : loopEnd e s = loopAt e s (e.sc.toNat + 1) := by
  rw [loopEnd, loopCount, h.skip, loopStart_trip h.plain h.off h.runs]; rfl

/-- The low bit of a register that shifts runs through its old bits (R127). -/
theorem outBit {n : RegName} (hior : n ≠ .IOR) (hn : Feeds e s.ab n ∨ Drives e s.ab n) {j : Nat} (hj : j < defaultWidths.of n) :
    ((loopAt e s j).regs.reg n).bit 0 = (startReg e s n).bit j := by
  rw [loopAt, pulses_outBit hior (h.loopStart_en hn) (by rwa [h.loopStart_width]), h.loopStart_bit]

/-- What enters a register that is fed, and one that is not (R125, R152, R167). -/
theorem inputBit_fed {n : RegName} (hf : Feeds e s.ab n) (j : Nat) : inputBit e (loopAt e s j) n = busBit e (loopAt e s j) :=
  inputBit_tbus (by rw [loopStart_reg h.plain h.off, BitReg.wire_src, if_pos hf])
theorem inputBit_own {n m : RegName} (hf : ¬ Feeds e s.ab n) (hm : ownSource e n = .reg m) (j : Nat) :
    inputBit e (loopAt e s j) n = ((loopAt e s j).regs.reg m).bit 0 :=
  inputBit_reg (by rw [loopStart_reg h.plain h.off, BitReg.wire_src, if_neg hf, hm])

/-- A register that shifts, after `j` pulses. -/
theorem loopAt_bit {n : RegName} (hior : n ≠ .IOR) (hn : Feeds e s.ab n ∨ Drives e s.ab n) {i : Nat} (hi : i < defaultWidths.of n)
    (j : Nat) : ((loopAt e s j).regs.reg n).bit i = if i + j < defaultWidths.of n then (startReg e s n).bit (i + j)
      else inputBit e (loopAt e s (i + j - defaultWidths.of n)) n := by
  rw [loopAt, pulses_bit hior (h.loopStart_en hn) (by rwa [h.loopStart_width]), h.loopStart_width, h.loopStart_bit]; rfl

/-- A register that shifts, after the whole cycle. -/
theorem runMi_bit {n : RegName} (hior : n ≠ .IOR) (hn : Feeds e s.ab n ∨ Drives e s.ab n) (hq : n ≠ .Q ∨ e.xop ≠ .qb)
    (hd : e.xop ≠ .dec ∨ n ≠ accOf s.ab) {i : Nat} (hi : i < defaultWidths.of n) :
    ((runMi e s).regs.reg n).bit i =
      if i + (e.sc.toNat + 1) < defaultWidths.of n then (startReg e s n).bit (i + (e.sc.toNat + 1))
      else inputBit e (loopAt e s (i + (e.sc.toNat + 1) - defaultWidths.of n)) n := by
  rw [runMi_reg h.plain h.hold hq hd, BitReg.release_bit, h.loopEnd_eq, h.loopAt_bit hior hn hi]

/-- A register that drives a bus and is not fed is rotated by the pulses (R127). -/
theorem own_word {n : RegName} (hw : defaultWidths.of n = 16) (hior : n ≠ .IOR) (hf : ¬ Feeds e s.ab n) (hdr : Drives e s.ab n)
    (hq : n ≠ .Q ∨ e.xop ≠ .qb) (hd : e.xop ≠ .dec ∨ n ≠ accOf s.ab) :
    ((runMi e s).regs.reg n).word = (startReg e s n).word.rotateRight (e.sc.toNat + 1) := by
  have hk : e.sc.toNat + 1 ≤ 16 := e.sc.isLt
  have hown : ownSource e n = .reg n := if_neg fun hc => by rw [hc.2] at hw; exact absurd hw (by decide)
  apply BitVec.eq_of_getLsbD_eq
  intro i hi
  have hbit := h.runMi_bit hior (.inr hdr) hq hd (i := i) (by omega)
  rw [hw, h.inputBit_own hf hown] at hbit
  rw [BitReg.getLsbD_word, hbit, getLsbD_rotateRight_of_le _ hk hi, BitReg.getLsbD_word, BitReg.getLsbD_word]
  split
  · next hlow => simp [hi, hlow]
  · have hj : i + (e.sc.toNat + 1) - 16 < 16 := by omega
    rw [h.outBit hior (.inr hdr) (hw ▸ hj)]
    simp [hi, hj]

/-- Over 16 pulses a register that is fed takes the word on the computation bus (R127, R167). -/
theorem fed_word {n : RegName} {v : Word} (hsc : e.sc = 15) (hw : defaultWidths.of n = 16) (hior : n ≠ .IOR)
    (hf : Feeds e s.ab n) (hq : n ≠ .Q ∨ e.xop ≠ .qb) (hd : e.xop ≠ .dec ∨ n ≠ accOf s.ab)
    (hv : ∀ j, j < 16 → busBit e (loopAt e s j) = v.getLsbD j) : ((runMi e s).regs.reg n).word = v := by
  apply BitVec.eq_of_getLsbD_eq
  intro i hi
  have hbit := h.runMi_bit hior (.inl hf) hq hd (i := i) (by omega)
  rw [hw, hsc] at hbit
  rw [BitReg.getLsbD_word, hbit]
  simp [hi, h.inputBit_fed hf, hv i hi]

/-- Over 16 pulses a register that drives a bus and is not fed comes round to its old word. -/
theorem kept_word {n : RegName} (hsc : e.sc = 15) (hw : defaultWidths.of n = 16) (hior : n ≠ .IOR) (hf : ¬ Feeds e s.ab n)
    (hdr : Drives e s.ab n) (hq : n ≠ .Q ∨ e.xop ≠ .qb) (hd : e.xop ≠ .dec ∨ n ≠ accOf s.ab) :
    ((runMi e s).regs.reg n).word = (startReg e s n).word := by
  rw [h.own_word hw hior hf hdr hq hd, hsc]
  apply BitVec.eq_of_getLsbD_eq
  intro i hi
  rw [getLsbD_rotateRight_of_le _ (by decide) hi]
  simp

/-! The bits on the two buses (R141). -/

theorem rbit_eq (j : Nat) : (loopAt e s j).rbit = driverBit (loopAt e s j).regs j (rDriver s.ab e.rop) := by
  rw [State.rbit, loopAt, pulses_rbus, pulses_evn, loopStart_buses, afterSetup_rbus h.plain h.buses, loopStart_cyc h.plain]
  exact congrArg (fun k => driverBit _ k _) (Nat.zero_add j)
theorem sbit_eq (j : Nat) : (loopAt e s j).sbit = driverBit (loopAt e s j).regs j ((sSource s.ab e.sop).map .reg) := by
  rw [State.sbit, loopAt, pulses_sbus, pulses_evn, loopStart_buses, afterSetup_sbus h.plain h.buses, loopStart_cyc h.plain]
  exact congrArg (fun k => driverBit _ k _) (Nat.zero_add j)

theorem rbit_reg {n : RegName} (hr : rSource s.ab e.rop = some n) {j : Nat} (hj : j < defaultWidths.of n) :
    (loopAt e s j).rbit = (startReg e s n).bit j := by
  have hior : n ≠ .IOR := by rintro rfl; simp [rSource_eq_some, ne_accOf] at hr
  have hunit : ¬ (e.rop = .unit ∨ e.rop = .unitx) := by rintro (hu | hu) <;> simp [hu, rSource] at hr
  rw [h.rbit_eq, rDriver, if_neg hunit, hr]
  exact (Regs.outBit_reg _ n).trans (h.outBit hior (.inr (.inr (.inl hr))) hj)
theorem sbit_reg {n : RegName} (hsrc : sSource s.ab e.sop = some n) {j : Nat} (hj : j < defaultWidths.of n) :
    (loopAt e s j).sbit = (startReg e s n).bit j := by
  have hior : n ≠ .IOR := by rintro rfl; simp [sSource_eq_some, ne_accOf] at hsrc
  rw [h.sbit_eq, hsrc]
  exact (Regs.outBit_reg _ n).trans (h.outBit hior (.inr (.inl hsrc)) hj)

theorem rbit_zero (hr : e.rop = .zero) (j : Nat) : (loopAt e s j).rbit = false := by
  rw [h.rbit_eq, hr]; rfl
theorem sbit_zero (hsop : e.sop = .zero) (j : Nat) : (loopAt e s j).sbit = false := by
  rw [h.sbit_eq, hsop]; rfl
/-- The unit constant is 1 at the first evaluation only (R150). -/
theorem rbit_unit (hr : e.rop = .unit ∨ e.rop = .unitx) (j : Nat) : (loopAt e s j).rbit = (1 : Word).getLsbD j := by
  rw [h.rbit_eq, rDriver, if_pos hr]
  cases j <;> simp [driverBit]

end PlainRun

/-! ### Storage through a cycle (R147, R148) -/

/-- `R_RDM` has loaded `T` with the cell at `M[14:0]` (R71, R147). -/
theorem startReg_rdm_word {e : Entry} {s : State} (hr : e.rop = .rdm) (hw : s.DefaultWidths) :
    (startReg e s .T).word = s.mem.get (s.regs.m.nat % 32768) := by
  have ht : (s.regs.reg .T).width = 16 := by rw [← Regs.widths_reg, hw]; rfl
  rw [startReg, State.atStepSeven_reg, if_pos ⟨hr, rfl⟩, BitReg.load_word ht, State.memRead, cellAddr_word]

/-- Settles O37: a read rotates what it loaded, a write is the one of step 3. -/
theorem storageThroughTheCycle : Obligations.StorageThroughTheCycle := by
  unfold Obligations.StorageThroughTheCycle
  intro s e hs hwf
  refine ⟨fun hr httt hw hrun hskip => ⟨runMi e s, rfl, ?_, ?_⟩, fun hr => ⟨runMi e s, rfl, fun a => ?_⟩⟩
  · have h : PlainRun e s := ⟨by rw [hr]; decide, hs, hw, hrun, hskip⟩
    rw [← startReg_rdm_word hr hw]
    exact h.own_word (n := .T) rfl (by decide) (by simp [Feeds, httt, xTarget_eq_some, ne_accOf])
      (by simp [Drives, hr, rSource]) (.inl (by decide)) (.inr (ne_accOf (by decide) (by decide)))
  · exact runMi_mem_of_not_wtm (by rw [hr]; decide) s
  · have ht : (runS e.sop (preload e (beginCycle e s))).regs.t.word = s.regs.t.word := by
      have hreg := runS_reg e.sop (preload e (beginCycle e s)) .T
      simp only [Regs.reg, preload_regs, beginCycle_regs] at hreg
      rw [hreg]
      simp [apply_ite BitReg.word]
    obtain ⟨-, hro, hput, hother, -⟩ := State.memWrite_spec s s.regs.m.word s.regs.t.word
    rw [cellAddr_word] at hro hput hother
    rw [runMi_mem, if_pos hr, ht]
    by_cases ha : a = s.regs.m.nat % 32768
    · subst ha
      cases hwr : s.writable (s.regs.m.nat % 32768)
      · simp [hro hwr]
      · simp [hput hwr hwf]
    · simp [ha, hother a ha]

/-! ### What the whole-word forms share (R141, R163, R242) -/

/-- The flag of a well-formed entry is the computed one (R163). -/
theorem Entry.skip_of_wf {e : Entry} (h : e.wf = true) : e.skip = e.skipOf := by
  simp only [Entry.wf, Bool.and_eq_true, beq_iff_eq] at h
  exact h.2

/-- The flag of a well-formed entry is clear where an operation claims a bus (R163). -/
theorem skip_of_sop {e : Entry} (hwf : e.wf = true) (h : e.sop ≠ .zero) : e.skip = false := by
  rw [Entry.skip_of_wf hwf]
  refine Bool.eq_false_iff.2 fun hs => ?_
  obtain ⟨-, -, -, hsop, -⟩ := (Entry.skipOf_iff e).1 hs
  exact h hsop
theorem skip_of_rop {e : Entry} (hwf : e.wf = true) (h : e.rop ≠ .zero) (h' : e.rop ≠ .wtm) : e.skip = false := by
  rw [Entry.skip_of_wf hwf]
  refine Bool.eq_false_iff.2 fun hs => ?_
  obtain ⟨-, -, -, -, hrop, -⟩ := (Entry.skipOf_iff e).1 hs
  exact hrop.elim h h'

section
variable {e : Entry} {s : State}

/-- The accumulator as `AB` selects it, by name. -/
theorem acc_word (s : State) : s.acc.word = (s.regs.reg (accOf s.ab)).word := by rw [State.acc_reg]
theorem runMi_acc (hop : e.rop ≠ .ios) (hs : s.hold = none) (hx : e.xop ≠ .cab) :
    (runMi e s).acc = (runMi e s).regs.reg (accOf s.ab) := by
  rw [State.acc_reg, runMi_ab hop hs, if_neg hx]

/-- What stands on the computation bus through the loop of `A_IOR` (R242). -/
theorem busBit_ior (href : s.ReferenceAlu) (hwf : e.wf = true) (ha : e.aop = .ior) (j : Nat) :
    busBit e (loopAt e s j) = ((loopAt e s j).rbit || (loopAt e s j).sbit) := by
  rw [loopAt, busBit_ref (by rw [loopStart_cfg, href.1]) (Entry.alu_of_wf hwf), ha]; rfl

/-- With the destination bus unclaimed, `A_IOR` passes the register on the source bus on; and the other way round (R141, R242). -/
theorem PlainRun.busBit_move (h : PlainRun e s) (href : s.ReferenceAlu) (hwf : e.wf = true) (ha : e.aop = .ior) {n : RegName}
    (hsrc : e.sop = .zero ∧ rSource s.ab e.rop = some n ∨ e.rop = .zero ∧ sSource s.ab e.sop = some n) {j : Nat}
    (hj : j < defaultWidths.of n) : busBit e (loopAt e s j) = (startReg e s n).bit j := by
  rw [busBit_ior href hwf ha]
  rcases hsrc with ⟨hzero, hr⟩ | ⟨hzero, hsop⟩
  · rw [h.sbit_zero hzero, h.rbit_reg hr hj, Bool.or_false]
  · rw [h.rbit_zero hzero, h.sbit_reg hsop hj, Bool.false_or]

/-- Over 16 pulses a register that drives a bus holds the word that stood there, whether it is fed with it or comes round. -/
theorem PlainRun.source_word (h : PlainRun e s) {n : RegName} {v : Word} (hsc : e.sc = 15) (hw : defaultWidths.of n = 16)
    (hior : n ≠ .IOR) (hdr : Drives e s.ab n) (hq : n ≠ .Q ∨ e.xop ≠ .qb) (hd : e.xop ≠ .dec ∨ n ≠ accOf s.ab)
    (hv : ∀ j, j < 16 → busBit e (loopAt e s j) = v.getLsbD j) (hown : (startReg e s n).word = v) :
    ((runMi e s).regs.reg n).word = v := by
  by_cases hf : Feeds e s.ab n
  · exact h.fed_word hsc hw hior hf hq hd hv
  · rw [h.kept_word hsc hw hior hf hdr hq hd, hown]

theorem BitReg.getLsbD_digit (r : BitReg) (i : Nat) : r.digit.getLsbD i = (decide (i < 4) && r.bit i) := by
  simp [BitReg.digit, BitReg.bit]

/-- After at least four pulses `E` holds the last four bits that entered it (R152, R164). -/
theorem PlainRun.e_digit (h : PlainRun e s) {v : Word} (hk : 3 ≤ e.sc.toNat) (hn : Feeds e s.ab .E ∨ Drives e s.ab .E)
    (hv : ∀ j, j < 16 → inputBit e (loopAt e s j) .E = v.getLsbD j) :
    (runMi e s).regs.e.digit = v.extractLsb' (e.sc.toNat - 3) 4 := by
  have hsc : e.sc.toNat < 16 := e.sc.isLt
  have hw : defaultWidths.of .E = 4 := rfl
  apply BitVec.eq_of_getLsbD_eq
  intro i hi
  have hbit := h.runMi_bit (n := .E) (by decide) hn (.inl (by decide)) (.inr (ne_accOf (by decide) (by decide))) (hw.symm ▸ hi)
  rw [hw, if_neg (by omega), hv _ (by omega), show i + (e.sc.toNat + 1) - 4 = e.sc.toNat - 3 + i by omega] at hbit
  rw [BitReg.getLsbD_digit, BitVec.getLsbD_extractLsb', ← hbit]
  rfl
end

/-! ### Moves (R242) -/

/-- The accumulators have sixteen bits and are neither `IOR` nor `Q`. -/
theorem accOf_plain (ab : Bool) : defaultWidths.of (accOf ab) = 16 ∧ accOf ab ≠ .IOR ∧ accOf ab ≠ .Q := by
  cases ab <;> decide

/-- The register a move form puts on the bus (R144 to R146, R151, R153, R154). -/
theorem move_source {e : Entry} {s : State} {v : Word}
    (h : (e.sop = .zero ∧ (e.rop = .p ∧ v = s.regs.p.word ∨ e.rop = .q ∧ v = s.regs.q.word ∨ e.rop = .acc ∧ v = s.acc.word)) ∨
      (e.rop = .zero ∧ (e.sop = .m ∧ v = s.regs.m.word ∨ e.sop = .t ∧ v = s.regs.t.word ∨ e.sop = .acc ∧ v = s.acc.word))) :
    ∃ n, (e.sop = .zero ∧ rSource s.ab e.rop = some n ∨ e.rop = .zero ∧ sSource s.ab e.sop = some n) ∧
      (s.regs.reg n).word = v ∧ defaultWidths.of n = 16 ∧ n ≠ .IOR ∧ e.rop ≠ .ios ∧ e.rop ≠ .rdm ∧
      (e.sop ≠ .zero ∨ e.rop ≠ .zero ∧ e.rop ≠ .wtm) := by
  obtain ⟨hw, hior, -⟩ := accOf_plain s.ab
  rcases h with ⟨hz, ⟨hr, rfl⟩ | ⟨hr, rfl⟩ | ⟨hr, rfl⟩⟩ | ⟨hz, ⟨hr, rfl⟩ | ⟨hr, rfl⟩ | ⟨hr, rfl⟩⟩
  · exact ⟨.P, by simp [hz, hr, rSource, Regs.reg, defaultWidths, Widths.of]⟩
  · exact ⟨.Q, by simp [hz, hr, rSource, Regs.reg, defaultWidths, Widths.of]⟩
  · exact ⟨accOf s.ab, by simp [hz, hr, rSource, acc_word, hw, hior]⟩
  · exact ⟨.M, by simp [hz, hr, sSource, Regs.reg, defaultWidths, Widths.of]⟩
  · exact ⟨.T, by simp [hz, hr, sSource, Regs.reg, defaultWidths, Widths.of]⟩
  · exact ⟨accOf s.ab, by simp [hz, hr, sSource, acc_word, hw, hior]⟩

/-- Settles O33: the bits of the source stand on the computation bus one after the other, and each receiver takes all sixteen. -/
theorem moveThroughOneBus : Obligations.MoveThroughOneBus := by
  unfold Obligations.MoveThroughOneBus
  intro s e v hs href hw hwf ha hsc hx hrun hform
  obtain ⟨n, hsrc, hv, hw16, hior, hplain, hrdm, hskip⟩ := move_source hform
  have h : PlainRun e s := ⟨hplain, hs, hw, hrun, hskip.elim (skip_of_sop hwf) fun hr => skip_of_rop hwf hr.1 hr.2⟩
  have hbus : ∀ j, j < 16 → busBit e (loopAt e s j) = v.getLsbD j := fun j hj => by
    rw [h.busBit_move href hwf ha hsrc (by omega), startReg_of_not_rdm hrdm, ← hv, BitReg.getLsbD_word]
    simp [hj]
  obtain ⟨haw, haior, haq⟩ := accOf_plain s.ab
  have hdr : Drives e s.ab n := hsrc.elim (fun hr => .inr (.inl hr.2)) fun hsop => .inl hsop.2
  have fed : ∀ m, defaultWidths.of m = 16 → m ≠ .IOR → Feeds e s.ab m → m ≠ .Q ∨ e.xop ≠ .qb →
      ((runMi e s).regs.reg m).word = v := fun m hm hmior hf hq => h.fed_word hsc hm hmior hf hq (.inl hx) hbus
  have driven : ∀ m, sSource s.ab e.sop = some m ∨ rSource s.ab e.rop = some m → m ≠ .Q ∨ e.xop ≠ .qb →
      ((runMi e s).regs.reg m).word = v := by
    intro m hm hq
    have hmn : m = n := by
      rcases hsrc with ⟨hzero, hr⟩ | ⟨hzero, hsop⟩
      · simpa [hzero, sSource, hr, eq_comm] using hm
      · simpa [hzero, rSource, hsop, eq_comm] using hm
    subst hmn
    exact h.source_word hsc hw16 hior hdr hq (.inl hx) hbus (by rw [startReg_of_not_rdm hrdm, hv])
  refine ⟨runMi e s, rfl, fun ht => ?_, fun hm => ?_, fun hp => ?_, fun hq => ?_, fun hc => ?_, fun he => ?_, fun hm => ?_, fun ht => ?_,
    fun hp => ?_, fun hq hqb => ?_, fun hc => ?_, ?_⟩
  · exact fed .T rfl (by decide) (by simp [Feeds, ht]) (.inl (by decide))
  · exact fed .M rfl (by decide) (by simp [Feeds, hm]) (.inl (by decide))
  · exact fed .P rfl (by decide) (by simp [Feeds, hp, xTarget]) (.inl (by decide))
  · exact fed .Q rfl (by decide) (by simp [Feeds, hq, xTarget]) (.inr (by rw [hq]; decide))
  · rw [runMi_acc hplain hs.1 (by rw [hc]; decide)]
    exact fed _ haw haior (by simp [Feeds, hc, xTarget]) (.inl haq)
  · have hf : Feeds e s.ab .E := by simp [Feeds, he, xTarget]
    have hdigit := h.e_digit (v := v) (by rw [hsc]; decide) (.inl hf) fun j hj => (h.inputBit_fed hf j).trans (hbus j hj)
    rwa [hsc] at hdigit
  · exact driven .M (.inl (by rw [hm]; rfl)) (.inl (by decide))
  · exact driven .T (.inl (by rw [ht]; rfl)) (.inl (by decide))
  · exact driven .P (.inr (by rw [hp]; rfl)) (.inl (by decide))
  · exact driven .Q (.inr (by rw [hq]; rfl)) (.inr hqb)
  · have hword := driven (accOf s.ab) (hc.imp (fun hc => by rw [hc]; rfl) fun hc => by rw [hc]; rfl) (.inl haq)
    cases hab : s.ab <;> rw [hab] at hword <;> exact hword
  · exact runMi_bc_of_not_updates hplain hs.1 href hwf (by rw [ha]; rfl)

end Sys2Proof.Machine
end

section
/-! SUPPORT. Proofs of the family of spec/41_bus_operations.md, whole control words: counting with the unit constant and the carry (R150,
R160, R244), and the shifts by digits through `E` (R152, R162, R164). -/

namespace Sys2Proof.Machine

section
variable {e : Entry} {s : State}

/-! ### Counting (R244) -/

/-- Under A_ADD the working carry runs through the carries of the sum of the words on the two buses (R221, R244). -/
theorem PlainRun.cw_add (h : PlainRun e s) (href : s.ReferenceAlu) (hwf : e.wf = true) (ha : e.aop = .add) (hx : e.xop ≠ .dec)
    {x y : Word} (hr : ∀ j, j < 16 → (loopAt e s j).rbit = x.getLsbD j) (hsb : ∀ j, j < 16 → (loopAt e s j).sbit = y.getLsbD j)
    {k : Nat} (hk : k ≤ 16) : (loopAt e s k).cyc.cw = BitVec.carry k x y s.bc := by
  induction k with
  | zero => rw [loopAt, pulses_zero, loopStart_cyc h.plain, if_neg hx, BitVec.carry_zero]
  | succ k ih =>
    have hstep := pulses_cw_ref (u := loopStart e s) (by rw [loopStart_cfg, href.1]) (Entry.alu_of_wf hwf) k
    rw [← loopAt, ← loopAt, ih (by omega), hr k (by omega), hsb k (by omega), ha] at hstep
    rw [hstep, BitVec.carry_succ]
    rfl

/-- So the computation bus carries their sum with the carry-in, bit by bit. -/
theorem PlainRun.busBit_add (h : PlainRun e s) (href : s.ReferenceAlu) (hwf : e.wf = true) (ha : e.aop = .add) (hx : e.xop ≠ .dec)
    {x y : Word} (hr : ∀ j, j < 16 → (loopAt e s j).rbit = x.getLsbD j) (hsb : ∀ j, j < 16 → (loopAt e s j).sbit = y.getLsbD j)
    {j : Nat} (hj : j < 16) : busBit e (loopAt e s j) = (x + y + (BitVec.ofBool s.bc).setWidth 16).getLsbD j := by
  have hbit := busBit_ref (u := loopStart e s) (by rw [loopStart_cfg, href.1]) (Entry.alu_of_wf hwf) j
  rw [← loopAt, h.cw_add href hwf ha hx hr hsb (by omega), hr j hj, hsb j hj, ha] at hbit
  rw [hbit, BitVec.getLsbD_add_add_bool hj]
  simp [refResult]

/-- Over 16 pulses a register that is fed takes the sum, and `BC` the carry out of bit 15 (R208, R244). -/
theorem PlainRun.sum_word (h : PlainRun e s) (href : s.ReferenceAlu) (hwf : e.wf = true) (ha : e.aop = .add) (hx : e.xop ≠ .dec)
    (hsc : e.sc = 15) {x y : Word} (hr : ∀ j, j < 16 → (loopAt e s j).rbit = x.getLsbD j)
    (hsb : ∀ j, j < 16 → (loopAt e s j).sbit = y.getLsbD j) {n : RegName} (hw : defaultWidths.of n = 16) (hior : n ≠ .IOR)
    (hf : Feeds e s.ab n) (hq : n ≠ .Q) :
    ((runMi e s).regs.reg n).word = x + y + (BitVec.ofBool s.bc).setWidth 16 ∧
      (runMi e s).bc = decide (2 ^ 16 ≤ x.toNat + y.toNat + s.bc.toNat) := by
  refine ⟨h.fed_word hsc hw hior hf (.inl hq) (.inl hx) fun j hj => h.busBit_add href hwf ha hx hr hsb hj, ?_⟩
  have hcarry := h.cw_add href hwf ha hx hr hsb (Nat.le_refl 16)
  rw [runMi_bc_working h.plain h.hold href.2 hx, h.loopEnd_eq, hsc]
  refine hcarry.trans ?_
  simp [BitVec.carry, Nat.mod_eq_of_lt x.isLt, Nat.mod_eq_of_lt y.isLt]

theorem State.DefaultWidths.reg {s : State} (h : s.DefaultWidths) (n : RegName) : (s.regs.reg n).width = defaultWidths.of n := by
  rw [← Regs.widths_reg, h]

/-- The word on a bus, where a register of 16 bits drives it (R141). -/
theorem PlainRun.rbit_word (h : PlainRun e s) {n : RegName} (hr : rSource s.ab e.rop = some n) (hrdm : e.rop ≠ .rdm)
    (hw : defaultWidths.of n = 16) (j : Nat) (hj : j < 16) : (loopAt e s j).rbit = (s.regs.reg n).word.getLsbD j := by
  rw [h.rbit_reg hr (by omega), startReg_of_not_rdm hrdm, BitReg.getLsbD_word]; simp [hj]
theorem PlainRun.sbit_word (h : PlainRun e s) {n : RegName} (hsop : sSource s.ab e.sop = some n) (hrdm : e.rop ≠ .rdm)
    (hw : defaultWidths.of n = 16) (j : Nat) (hj : j < 16) : (loopAt e s j).sbit = (s.regs.reg n).word.getLsbD j := by
  rw [h.sbit_reg hsop (by omega), startReg_of_not_rdm hrdm, BitReg.getLsbD_word]; simp [hj]

/-- The unit constant is added to the register on the destination bus where that is also fed (R150, R160, R244). -/
theorem PlainRun.increment (h : PlainRun e s) (href : s.ReferenceAlu) (hwf : e.wf = true) (ha : e.aop = .add) (hsc : e.sc = 15)
    (hx : e.xop ≠ .dec) (hu : e.rop = .unit ∨ e.rop = .unitx) {n : RegName} (hsop : sSource s.ab e.sop = some n)
    (hw : defaultWidths.of n = 16) (hf : Feeds e s.ab n) :
    ((runMi e s).regs.reg n).word = (s.regs.reg n).word + 1 + (BitVec.ofBool s.bc).setWidth 16 ∧
      (runMi e s).bc = decide (2 ^ 16 ≤ (s.regs.reg n).nat + 1 + s.bc.toNat) := by
  have hplain : n ≠ .IOR ∧ n ≠ .Q := by constructor <;> rintro rfl <;> simp [sSource_eq_some, ne_accOf] at hsop
  have hrdm : e.rop ≠ .rdm := by rcases hu with hu | hu <;> rw [hu] <;> decide
  obtain ⟨hword, hbc⟩ := h.sum_word href hwf ha hx hsc (fun j _ => h.rbit_unit hu j) (h.sbit_word hsop hrdm hw) hw hplain.1 hf hplain.2
  rw [BitReg.word_toNat ((h.widths.reg n).trans hw), Nat.add_comm (1 : Word).toNat] at hbc
  exact ⟨by rw [hword, BitVec.add_comm 1], hbc⟩

end

/-- Settles O34: the sum of the unit constant and the register, or of `P` and nothing, with the carry-in. -/
theorem unitConstantIncrements : Obligations.UnitConstantIncrements := by
  unfold Obligations.UnitConstantIncrements
  intro s e hs href hw hwf ha hsc hrun
  have run : ∀ hop : e.rop ≠ .ios, e.skip = false → PlainRun e s := fun hop hskip => ⟨hop, hs, hw, hrun, hskip⟩
  refine ⟨fun hu => ?_, fun hsop hr hx => ⟨runMi e s, rfl, ?_⟩⟩
  · have hop : e.rop ≠ .ios ∧ e.rop ≠ .zero ∧ e.rop ≠ .wtm := by rcases hu with hu | hu <;> rw [hu] <;> decide
    have h := run hop.1 (skip_of_rop hwf hop.2.1 hop.2.2)
    refine ⟨fun hsop httm hx => ⟨runMi e s, rfl, ?_⟩, fun hsop httt hx => ⟨runMi e s, rfl, ?_⟩, fun hsop hx => ⟨runMi e s, rfl, ?_⟩⟩
    · exact h.increment href hwf ha hsc (by rw [hx]; decide) hu (n := .M) (by rw [hsop]; rfl) rfl (by simp [Feeds, httm])
    · exact h.increment href hwf ha hsc (by rw [hx]; decide) hu (n := .T) (by rw [hsop]; rfl) rfl (by simp [Feeds, httt])
    · rw [runMi_acc hop.1 hs.1 (by rw [hx]; decide), State.acc_reg]
      exact h.increment href hwf ha hsc (by rw [hx]; decide) hu (by rw [hsop]; rfl) (accOf_plain s.ab).1 (by simp [Feeds, hx, xTarget])
  · have h := run (by rw [hr]; decide) (skip_of_rop hwf (by rw [hr]; decide) (by rw [hr]; decide))
    obtain ⟨hword, hbc⟩ := h.sum_word href hwf ha (by rw [hx]; decide) hsc
      (h.rbit_word (n := .P) (by rw [hr]; rfl) (by rw [hr]; decide) rfl) (y := 0#16) (fun j _ => by simp [h.sbit_zero hsop])
      (n := .P) rfl (by decide) (by simp [Feeds, hx, xTarget]) (by decide)
    rw [BitReg.word_toNat (h.widths.reg .P)] at hbc
    rw [BitVec.add_zero] at hword
    exact ⟨hword, hbc⟩

/-! ### Shifts by digits through `E` (R152, R162, R164) -/

section
variable {e : Entry} {s : State}

/-- `R_TRE` is never with X_E, and `R_E` only with X_NONE (R100, R162). -/
theorem xop_of_tre (hwf : e.wf = true) (hr : e.rop = .tre) : e.xop ≠ .e := by
  simp only [Entry.wf, Bool.and_eq_true, Entry.throughEAgrees, hr, bne_iff_ne] at hwf
  obtain ⟨⟨⟨-, hx⟩, -⟩, -⟩ := hwf
  exact hx
theorem xop_of_rE (hwf : e.wf = true) (hr : e.rop = .e) : e.xop = .none := by
  simp only [Entry.wf, Bool.and_eq_true, Entry.throughEAgrees, hr, beq_iff_eq] at hwf
  obtain ⟨⟨⟨-, hx⟩, -⟩, -⟩ := hwf
  exact hx

theorem not_feeds_e (hx : e.xop ≠ .e) : ¬ Feeds e s.ab .E := by
  simp [Feeds, xTarget_eq_some, hx, ne_accOf]

/-- Under `R_TRE` the bits of `T` enter `E` (R152). -/
theorem PlainRun.inputBit_tre (h : PlainRun e s) (hwf : e.wf = true) (hr : e.rop = .tre) {j : Nat} (hj : j < 16) :
    inputBit e (loopAt e s j) .E = s.regs.t.word.getLsbD j := by
  rw [h.inputBit_own (not_feeds_e (xop_of_tre hwf hr)) (m := .T) (by simp [ownSource, hr]),
    h.outBit (by decide) (.inr (by simp [Drives, hr])) hj, startReg_of_not_rdm (by rw [hr]; decide), BitReg.getLsbD_word]
  simp [hj, Regs.reg]

/-- So `E` puts first its own digit and then the low digits of `T` on the source bus. -/
theorem PlainRun.rbit_tre (h : PlainRun e s) (hwf : e.wf = true) (hr : e.rop = .tre) {j : Nat} (hj : j < 16) :
    (loopAt e s j).rbit = (s.regs.t.word.extractLsb' 0 12 ++ s.regs.e.digit).getLsbD j := by
  have hsrc : rSource s.ab e.rop = some .E := by rw [hr]; rfl
  have hE : (loopAt e s j).rbit = ((loopAt e s j).regs.reg .E).bit 0 := by
    rw [h.rbit_eq, rDriver, if_neg (by rw [hr]; decide), hsrc]; rfl
  have hw : defaultWidths.of .E = 4 := rfl
  rw [hE, h.loopAt_bit (by decide) (.inr (.inr (.inl hsrc))) (by decide), hw, Nat.zero_add, BitVec.getLsbD_append]
  by_cases hlow : j < 4
  · rw [if_pos hlow, startReg_of_not_rdm (by rw [hr]; decide), BitReg.getLsbD_digit]
    simp [hlow, Regs.reg]
  · rw [if_neg hlow, h.inputBit_tre hwf hr (by omega)]
    simp [hlow, show j - 4 < 12 by omega]

end

/-- Settles O35: `E` stands one digit behind `T` on the way to the computation bus. -/
theorem transferThroughEShiftsOneDigit : Obligations.TransferThroughEShiftsOneDigit := by
  unfold Obligations.TransferThroughEShiftsOneDigit
  rintro s e v hs href hw hwf hsop hr ha hsc hx hrun rfl
  have h : PlainRun e s := ⟨by rw [hr]; decide, hs, hw, hrun, skip_of_rop hwf (by rw [hr]; decide) (by rw [hr]; decide)⟩
  have hbus : ∀ j, j < 16 → busBit e (loopAt e s j) = (s.regs.t.word.extractLsb' 0 12 ++ s.regs.e.digit).getLsbD j :=
    fun j hj => by rw [busBit_ior href hwf ha, h.sbit_zero hsop, h.rbit_tre hwf hr hj, Bool.or_false]
  have fed : ∀ n, defaultWidths.of n = 16 → n ≠ .IOR → Feeds e s.ab n → n ≠ .Q ∨ e.xop ≠ .qb →
      ((runMi e s).regs.reg n).word = s.regs.t.word.extractLsb' 0 12 ++ s.regs.e.digit := fun n hn hior hf hq =>
    h.fed_word hsc hn hior hf hq (.inl hx) hbus
  refine ⟨runMi e s, rfl, ?_, ?_, fun hm => ?_, fun hc => ?_, fun hp => ?_, fun hq => ?_⟩
  · have hdigit := h.e_digit (v := s.regs.t.word) (by rw [hsc]; decide) (.inr (by simp [Drives, hr, rSource]))
      fun j hj => h.inputBit_tre hwf hr hj
    rwa [hsc] at hdigit
  · split
    · next ht => exact fed .T rfl (by decide) (by simp [Feeds, ht]) (.inl (by decide))
    · next ht =>
      have hkept := h.kept_word (n := .T) hsc rfl (by decide) (by simp [Feeds, ht, xTarget_eq_some, ne_accOf]) (by simp [Drives, hr])
        (.inl (by decide)) (.inl hx)
      rwa [startReg_of_not_rdm (by rw [hr]; decide)] at hkept
  · exact fed .M rfl (by decide) (by simp [Feeds, hm]) (.inl (by decide))
  · obtain ⟨haw, haior, haq⟩ := accOf_plain s.ab
    rw [runMi_acc h.plain hs.1 (by rw [hc]; decide)]
    exact fed _ haw haior (by simp [Feeds, hc, xTarget]) (.inl haq)
  · exact fed .P rfl (by decide) (by simp [Feeds, hp, xTarget]) (.inl (by decide))
  · exact fed .Q rfl (by decide) (by simp [Feeds, hq, xTarget]) (.inr (by rw [hq]; decide))

/-- Over four pulses the derived `R_E` puts `E` above the upper digits of `T` (R162). -/
theorem PlainRun.digit_into_t {e : Entry} {s : State} (h : PlainRun e s) (href : s.ReferenceAlu) (hwf : e.wf = true) (ha : e.aop = .ior)
    (hsc : e.sc = 3) (hsop : e.sop = .zero) (hr : e.rop = .e) (ht : e.ttt = true) :
    (runMi e s).regs.t.word = s.regs.e.digit ++ s.regs.t.word.extractLsb' 4 12 := by
  have hf : Feeds e s.ab .T := by simp [Feeds, ht]
  have hw : defaultWidths.of .T = 16 := rfl
  have hrdm : e.rop ≠ .rdm := by rw [hr]; decide
  have hcount : e.sc.toNat = 3 := by rw [hsc]; rfl
  apply BitVec.eq_of_getLsbD_eq
  intro i hi
  have hbit := h.runMi_bit (n := .T) (by decide) (.inl hf) (.inl (by decide)) (.inl (by rw [xop_of_rE hwf hr]; decide))
    (hw.symm ▸ hi)
  rw [hw, hcount, h.inputBit_fed hf, startReg_of_not_rdm hrdm] at hbit
  rw [BitReg.getLsbD_word, ← Regs.reg, hbit, BitVec.getLsbD_append]
  by_cases hlow : i < 12
  · rw [if_pos (by omega), if_pos hlow, BitVec.getLsbD_extractLsb', BitReg.getLsbD_word, Nat.add_comm 4 i]
    simp [hi, hlow, show i + 4 < 16 by omega, Regs.reg]
  · rw [if_neg (by omega), if_neg hlow, show i + (3 + 1) - 16 = i - 12 by omega,
      h.busBit_move href hwf ha (n := .E) (.inl ⟨hsop, by rw [hr]; rfl⟩) (show i - 12 < 4 by omega), startReg_of_not_rdm hrdm,
      BitReg.getLsbD_digit]
    simp [hi, show i - 12 < 4 by omega, Regs.reg]

/-- And `E`, whose four bits have gone round, holds them again. -/
theorem PlainRun.e_kept {e : Entry} {s : State} (h : PlainRun e s) (hwf : e.wf = true) (hsc : e.sc = 3) (hr : e.rop = .e) :
    (runMi e s).regs.e.nat = s.regs.e.nat := by
  have hdr : Drives e s.ab .E := by simp [Drives, hr, rSource]
  have hf : ¬ Feeds e s.ab .E := not_feeds_e (by rw [xop_of_rE hwf hr]; decide)
  have hw : defaultWidths.of .E = 4 := rfl
  have hcount : e.sc.toNat = 3 := by rw [hsc]; rfl
  refine BitReg.nat_of_bits fun i => ?_
  by_cases hi : i < 4
  · have hbit := h.runMi_bit (n := .E) (by decide) (.inr hdr) (.inl (by decide)) (.inr (ne_accOf (by decide) (by decide)))
      (hw.symm ▸ hi)
    rw [hw, hcount, if_neg (by omega), h.inputBit_own hf (m := .E) (by simp [ownSource, hr]), Nat.add_sub_cancel (n := i) (m := 4),
      h.outBit (by decide) (.inr hdr) (hw.symm ▸ hi), startReg_of_not_rdm (by rw [hr]; decide)] at hbit
    exact hbit
  · have hafter : (runMi e s).regs.e.width = 4 := by
      rw [← Regs.reg, ← Regs.widths_reg, runMi_widths, h.widths, hw]
    rw [BitReg.bit_of_ge (by omega), BitReg.bit_of_ge (r := s.regs.e) (by rw [← Regs.reg, h.widths.reg, hw]; omega)]

/-- Settles O36: a digit enters at the top of what is fed while the driver goes round by four. -/
theorem digitsMoveInAndOutOfE : Obligations.DigitsMoveInAndOutOfE := by
  unfold Obligations.DigitsMoveInAndOutOfE
  intro s e hs href hw hwf ha hsc hrun
  refine ⟨fun hsop hr ht => ?_, fun hsop hr hx => ?_⟩
  · have h : PlainRun e s := ⟨by rw [hr]; decide, hs, hw, hrun, skip_of_rop hwf (by rw [hr]; decide) (by rw [hr]; decide)⟩
    exact ⟨runMi e s, rfl, h.digit_into_t href hwf ha hsc hsop hr ht, h.e_kept hwf hsc hr⟩
  · have h : PlainRun e s := ⟨by rw [hr]; decide, hs, hw, hrun, skip_of_sop hwf (by rw [hsop]; decide)⟩
    obtain ⟨haw, haior, haq⟩ := accOf_plain s.ab
    have hsrc : sSource s.ab e.sop = some (accOf s.ab) := by rw [hsop]; rfl
    have hf : Feeds e s.ab .E := by simp [Feeds, hx, xTarget]
    have hrdm : e.rop ≠ .rdm := by rw [hr]; decide
    refine ⟨runMi e s, rfl, ?_, ?_⟩
    · have hdigit := h.e_digit (v := s.acc.word) (by rw [hsc]; decide) (.inl hf) fun j hj => by
        rw [h.inputBit_fed hf, h.busBit_move href hwf ha (.inr ⟨hr, hsrc⟩) (by omega), startReg_of_not_rdm hrdm, acc_word,
          BitReg.getLsbD_word]
        simp [hj]
      rwa [hsc] at hdigit
    · have hnf : ¬ Feeds e s.ab (accOf s.ab) := by cases s.ab <;> simp [Feeds, hx, xTarget, accOf]
      have hround := h.own_word haw haior hnf (.inl hsrc) (.inl haq) (.inl (by rw [hx]; decide))
      rw [hsc, startReg_of_not_rdm hrdm, ← acc_word] at hround
      rwa [runMi_acc h.plain hs.1 (by rw [hx]; decide)]

end Sys2Proof.Machine
end

section
/-! SUPPORT. Proofs of the family of spec/41_bus_operations.md, shift-skip (R163, R171, R346): with no register enabled and no bus claimed,
the pulses a skip leaves out change the transients of the cycle alone, and these are dead at its end. -/

namespace Sys2Proof

/-- An entry with its skip flag forced off (R171). -/
abbrev Entry.forced (e : Entry) : Entry :=
  { e with skip := false }

end Sys2Proof

namespace Sys2Proof.Machine

/-! ### The transients are no condition and no address (R33, R204) -/

/-- A state with other transients of the cycle. -/
abbrev State.withCyc (s : State) (c : Cycle) : State :=
  { s with cyc := c }

section
variable (s : State) (c : Cycle)

theorem applyEvent_withCyc (x : ExtEvent) : applyEvent false (s.withCyc c) x = (applyEvent false s x).withCyc c := by
  cases x with
  | periph d a => simp only [applyEvent]; split <;> rfl
  | host h =>
    cases h with
    | stop v => rfl
    | preset => rfl
    | register d => simp only [applyEvent]; split <;> rfl
    | remove d => simp only [applyEvent]; split <;> rfl

/-- Other agents neither read nor write the transients inside a cycle (R349). -/
theorem interleave_withCyc : interleave false (s.withCyc c) = (interleave false s).withCyc c := by
  have hfold : ∀ (g : List ExtEvent) (u : State),
      g.foldl (applyEvent false) (u.withCyc c) = (g.foldl (applyEvent false) u).withCyc c := by
    intro g
    induction g with
    | nil => exact fun _ => rfl
    | cons x g ih => intro u; rw [List.foldl_cons, applyEvent_withCyc, ih, List.foldl_cons]
  cases henv : s.ext.env with
  | nil => rw [interleave_quiet henv, interleave_quiet (s := s.withCyc c) henv]
  | cons g rest =>
    simp only [interleave, henv]
    exact hfold g { s with ext := { s.ext with env := rest } }

theorem State.condition_withCyc (q : Qualifier) : (s.withCyc c).condition q = s.condition q :=
  State.condition_congr (s := s) (t := s.withCyc c) rfl (fun _ _ => rfl) rfl rfl rfl rfl rfl q

theorem State.qsel_withCyc : (s.withCyc c).qsel = s.qsel := by
  simp only [State.qsel, State.condition_withCyc]

theorem sampleQual_withCyc : sampleQual (s.withCyc c) = (sampleQual s).withCyc c := by
  have htest : (s.withCyc c).testReadsArbiter = s.testReadsArbiter := by
    simp only [State.testReadsArbiter, State.qualifier, State.qsel_withCyc]
  unfold sampleQual
  rw [htest]
  split
  · exact interleave_withCyc s c
  · rfl

/-- The branch test writes the branch flag, whatever the other transients are (R205, R210). -/
theorem runBrq_withCyc : runBrq (s.withCyc c) = (runBrq s).withCyc { c with brt := (runBrq s).cyc.brt } := by
  simp only [runBrq, sampleQual_withCyc, State.qual_qsel_cyc]

/-- The inhibit flag writes the count of pulses, whatever the other transients are (R200). -/
theorem runIqn_withCyc : runIqn (s.withCyc c) = (runIqn s).withCyc (runIqn (s.withCyc c)).cyc := by
  simp only [runIqn, sampleQual_withCyc, State.qual_qsel_cyc]
  split <;> rfl

theorem tripCount_withCyc (e : Entry) : tripCount e (s.withCyc c) = (tripCount e s).withCyc (tripCount e (s.withCyc c)).cyc := by
  have hiqn : ∀ c₁ c₂, runIqn (s.withCyc c₁) = (runIqn (s.withCyc c₂)).withCyc (runIqn (s.withCyc c₁)).cyc := by
    intro c₁ c₂
    rw [runIqn_withCyc s c₂, runIqn_withCyc s c₁]
  unfold tripCount
  dsimp only
  split
  · exact hiqn _ _
  · rfl

end

/-! ### Evaluations of unclaimed buses (R229, R346) -/

/-- What shift-skip needs of an opcode: with both buses unclaimed its entries leave the carry alone and have one result bit (R346). -/
def Unseen (alu : Vector (BitVec 8) 256) (code : BitVec 3) : Prop :=
  ∀ cw dm a0 : Bool, (tableAt alu (aluIndex code cw dm a0 false false)).getLsbD 2 = false ∧
    (tableAt alu (aluIndex code cw dm a0 false false)).getLsbD 0 = (tableAt alu (aluIndex code false false false false false)).getLsbD 0

/-- So it is for the logical operations under the reference table (R227, R241 to R243). -/
theorem unseen_refAlu {op : AOp} (h : op.skipOK = true) : Unseen refAlu op.code := by
  intro cw dm a0
  simp only [tableAt_refAlu, refAluAt_aluIndex]
  rcases (AOp.skipOK_iff op).1 h with rfl | rfl | rfl | rfl <;> simp [refUpdates, refResult]

/-- Both buses are unclaimed and no register shifts. -/
structure Unclaimed (u : State) : Prop where
  off : ∀ n, (u.regs.reg n).en = false
  rbus : u.buses.rbus = none
  sbus : u.buses.sbus = none

/-- An evaluation of unclaimed buses puts the opcode's one result bit on the computation bus and leaves the carry (R202, R222). -/
theorem Unclaimed.aluEntry {u : State} (h : Unclaimed u) {code : BitVec 3} (hfit : Unseen u.cfg.aluTable code) :
    (u.aluEntry code).getLsbD 2 = false ∧ (u.aluEntry code).getLsbD 0 =
      (tableAt u.cfg.aluTable (aluIndex code false false false false false)).getLsbD 0 := by
  have hr : u.rbit = false := by rw [State.rbit, h.rbus]; rfl
  have hs : u.sbit = false := by rw [State.sbit, h.sbus]; rfl
  rw [State.aluEntry, hr, hs]
  exact hfit _ _ _

theorem Regs.eq_of_reg {r t : Regs} (h : ∀ n, r.reg n = t.reg n) (hbyte : r.iorByte = t.iorByte) : r = t := by
  cases r; cases t
  simp only [Regs.mk.injEq]
  exact ⟨h .A, h .B, h .T, h .M, h .P, h .Q, h .E, h .IOR, h .AUX, hbyte⟩

/-- A pulse of registers that are all off moves nothing (R123, R206). -/
theorem Regs.pulse_of_off {r : Regs} (h : ∀ n, (r.reg n).en = false) (tbus : Bool) : r.pulse allRegs tbus = r :=
  Regs.eq_of_reg (fun n => by rw [Regs.pulse_reg, BitReg.loadInput_off (h n), BitReg.shiftSel_off (h n)]) rfl

theorem pulse_aluPass_of_off {u : State} (h : ∀ n, (u.regs.reg n).en = false) (op : BitVec 3) :
    pulse (aluPass op u) =
      { u with buses := { u.buses with tbus := (aluPass op u).buses.tbus }, cyc := (pulse (aluPass op u)).cyc } := by
  have hregs : (pulse (aluPass op u)).regs = u.regs := by rw [pulse_regs, aluPass_regs, Regs.pulse_of_off h]
  exact congrArg (fun r => { pulse (aluPass op u) with regs := r }) hregs

/-- Pulses of unclaimed buses change the computation bus and the transients alone; the working carry and the mode stay (R206). -/
theorem Unclaimed.pulses_eq {e : Entry} {u : State} (h : Unclaimed u) (hfit : Unseen u.cfg.aluTable e.alu) (k : Nat) :
    ∃ b c, pulses e k u = { u with buses := { u.buses with tbus := b }, cyc := c } ∧ c.cw = u.cyc.cw ∧ c.dm = u.cyc.dm := by
  induction k with
  | zero => exact ⟨u.buses.tbus, u.cyc, rfl, rfl, rfl⟩
  | succ k ih =>
    obtain ⟨b, c, hk, hcw, hdm⟩ := ih
    have hkun : Unclaimed (pulses e k u) := by rw [hk]; exact ⟨h.off, h.rbus, h.sbus⟩
    obtain ⟨hctv, -⟩ := hkun.aluEntry (code := e.alu) (by rw [pulses_cfg]; exact hfit)
    have hcarry : (pulses e (k + 1) u).cyc.cw = u.cyc.cw := by
      rw [pulses_cw_succ, hctv, if_neg (by decide), hk, hcw]
    refine ⟨(pulses e (k + 1) u).buses.tbus, (pulses e (k + 1) u).cyc, ?_, hcarry, pulses_dm e _ u⟩
    rw [pulses_succ, hk]
    exact pulse_aluPass_of_off (u := { u with buses := { u.buses with tbus := b }, cyc := c }) h.off e.alu

/-- So the terminating evaluation finds what it would have found before them, but for the transients. -/
theorem Unclaimed.lastPass {e : Entry} {u : State} (h : Unclaimed u) (hfit : Unseen u.cfg.aluTable e.alu) (k : Nat) (c : Cycle) :
    ∃ d, aluPass e.alu (pulses e k (u.withCyc c)) = (aluPass e.alu u).withCyc d ∧ d.cw = c.cw ∧ d.dm = c.dm ∧
      d.ctv = false := by
  have hun : Unclaimed (u.withCyc c) := ⟨h.off, h.rbus, h.sbus⟩
  obtain ⟨b, d, hk, hcw, hdm⟩ := hun.pulses_eq hfit k
  have hkun : Unclaimed (pulses e k (u.withCyc c)) := by rw [hk]; exact ⟨h.off, h.rbus, h.sbus⟩
  obtain ⟨hctv, hbit⟩ := hkun.aluEntry (code := e.alu) (by rw [pulses_cfg]; exact hfit)
  obtain ⟨-, hfirst⟩ := h.aluEntry hfit
  rw [pulses_cfg, ← hfirst] at hbit
  refine ⟨(aluPass e.alu (pulses e k (u.withCyc c))).cyc, ?_, ?_, ?_, hctv⟩
  · simp only [aluPass, hbit]
    rw [hk]
    rfl
  · rw [hk]; exact hcw
  · rw [hk]; exact hdm

/-! ### The end of the cycle (R205 to R212) -/

theorem specialCase_withCyc (op : XOp) (s : State) (c : Cycle) : specialCase op (s.withCyc c) = (specialCase op s).withCyc c := by
  cases op <;> rfl

/-- The carry commit reads the transients for the mode and the carry alone (R208). -/
theorem commitCarry_withCyc {s : State} {c : Cycle} (hdm : c.dm = s.cyc.dm) (hcarry : (s.withCyc c).committedCarry = s.committedCarry) :
    commitCarry (s.withCyc c) = (commitCarry s).withCyc c := by
  unfold commitCarry
  rw [hcarry, hdm]
  split <;> rfl

theorem terminate_withCyc {e : Entry} {s : State} {c : Cycle} (hdm : c.dm = s.cyc.dm)
    (hcarry : (s.withCyc c).committedCarry = s.committedCarry) :
    terminate e (s.withCyc c) = (terminate e s).withCyc { c with brt := (terminate e s).cyc.brt } := by
  have hcommit : ∀ t : State, t.cfg = s.cfg → t.cyc = { s.cyc with brt := t.cyc.brt } →
      commitCarry (specialCase e.xop (t.withCyc { c with brt := t.cyc.brt })) =
        (commitCarry (specialCase e.xop t)).withCyc { c with brt := (commitCarry (specialCase e.xop t)).cyc.brt } := by
    intro t hcfg hcyc
    rw [specialCase_withCyc, commitCarry_cyc, specialCase_cyc]
    refine commitCarry_withCyc ?_ ?_
    · rw [specialCase_cyc, hcyc]; exact hdm
    · have hleft : ((specialCase e.xop t).withCyc { c with brt := t.cyc.brt }).committedCarry = (s.withCyc c).committedCarry :=
        State.committedCarry_congr (by simp [hcfg]) rfl rfl rfl
      have hright : (specialCase e.xop t).committedCarry = s.committedCarry := State.committedCarry_congr (by simp [hcfg])
        (by rw [specialCase_cyc, hcyc]) (by rw [specialCase_cyc, hcyc]) (by rw [specialCase_cyc, hcyc])
      rw [hright, ← hcarry]
      exact hleft
  unfold terminate
  dsimp only
  split
  · rw [runBrq_withCyc]
    exact hcommit _ (by simp) (runBrq_cyc s)
  · exact hcommit { s with cyc := { s.cyc with brt := true } } rfl rfl

/-- Outside decimal mode the end of the cycle sees of the transients the committed carry alone. -/
theorem finish_withCyc {e : Entry} {s : State} {c : Cycle} (hs : s.cyc.dm = false) (hc : c.dm = false)
    (hcarry : (s.withCyc c).committedCarry = s.committedCarry) :
    endCycle (nextAddress e (decimalCommit e.aop (terminate e (s.withCyc c)))) =
      endCycle (nextAddress e (decimalCommit e.aop (terminate e s))) := by
  have hend : (terminate e s).cyc.dm = false := by rw [terminate_cyc]; exact hs
  rw [terminate_withCyc (hc.trans hs.symm) hcarry, decimalCommit_off hend, decimalCommit_off (by exact hc)]
  rfl

/-! ### A word with and without its skip flag (R163, R171) -/

theorem State.memWrite_withCyc (s : State) (c : Cycle) (a v : Word) : (s.withCyc c).memWrite a v = (s.memWrite a v).withCyc c := by
  have hwritable : (s.withCyc c).writable (cellAddr a) = s.writable (cellAddr a) := rfl
  unfold State.memWrite
  rw [hwritable]
  split <;> rfl

/-- Steps 1 to 6 of a word that may skip: the transients, the write of `R_WTM`, the toggle of X_CAB (R163). -/
theorem afterSetup_of_skipOf {e : Entry} (h : e.skipOf = true) (s : State) : afterSetup e s =
    { s with
      mem := if e.rop = .wtm then (s.memWrite s.regs.m.word s.regs.t.word).mem else s.mem
      ab := if e.xop = .cab then !s.ab else s.ab
      cyc := { Cycle.idle with ir := some e } } := by
  obtain ⟨httt, httm, hxtr, hsop, hrop, hxop, -⟩ := (Entry.skipOf_iff e).1 h
  have hfront : cycleFront e s = { s with
      mem := if e.rop = .wtm then (s.memWrite s.regs.m.word s.regs.t.word).mem else s.mem
      cyc := { Cycle.idle with ir := some e } } := by
    have hpre : runS e.sop (preload e (beginCycle e s)) = beginCycle e s := by rw [hsop, preload, hxtr]; rfl
    rw [cycleFront, hpre]
    rcases hrop with hr | hr
    · rw [hr]; rfl
    · obtain ⟨hframe, -⟩ := State.memWrite_spec s s.regs.m.word s.regs.t.word
      rw [hr, if_pos rfl]
      exact (State.memWrite_withCyc s _ _ _).trans
        (congrArg (fun u : State => u.withCyc { Cycle.idle with ir := some e }) hframe)
  have harm : armTargets e (cycleFront e s) = cycleFront e s := by rw [armTargets, httt, httm]; rfl
  rw [afterSetup, harm, hfront]
  rcases hxop with hx | hx | hx <;> rw [hx] <;> rfl

/-- A word's loop starts from the same state with its skip flag forced off, but for the transients. -/
theorem loopStart_forced {e : Entry} (h : e.skipOf = true) (s : State) :
    loopStart e.forced s = (loopStart e s).withCyc (loopStart e.forced s).cyc := by
  have hsetup : afterSetup e.forced s =
      (afterSetup e s).withCyc { Cycle.idle with ir := some e.forced } := by
    rw [afterSetup_of_skipOf h, afterSetup_of_skipOf (e := e.forced) h]
  have htrip : tripCount e.forced (afterSetup e.forced s) = (tripCount e (afterSetup e s)).withCyc
      (tripCount e.forced (afterSetup e.forced s)).cyc := by
    rw [hsetup]
    exact tripCount_withCyc _ _ e
  have hinit := congrArg (fun u : State => u.withCyc (loopStart e.forced s).cyc) htrip
  exact hinit

/-- The loop of a word that may skip finds both buses unclaimed and every register off. -/
theorem unclaimed_loopStart {e : Entry} {s : State} (h : e.skipOf = true) (hs : s.AtRest) : Unclaimed (loopStart e s) := by
  obtain ⟨-, hoff, hbus, -⟩ := hs
  have hbuses : (loopStart e s).buses = Buses.idle := by rw [loopStart_buses, afterSetup_of_skipOf h]; exact hbus
  refine ⟨fun n => ?_, by rw [hbuses]; rfl, by rw [hbuses]; rfl⟩
  rw [loopStart_regs, afterSetup_of_skipOf h]
  exact (Regs.off_reg hoff n).2

/-- An evaluation that leaves the carry alone commits the working carry under either rule (R208). -/
theorem State.committedCarry_of_ctv {s : State} (h : s.cyc.ctv = false) : s.committedCarry = s.cyc.cw := by
  unfold State.committedCarry
  split
  · rfl
  · rw [h]; rfl

/-- A word with its skip flag forced off does what it does with it. -/
theorem runMi_forced {e : Entry} {s : State} (hs : s.AtRest) (hskip : e.skip = e.skipOf)
    (hfit : e.aop.skipOK = true → Unseen s.cfg.aluTable e.alu) : runMi e.forced s = runMi e s := by
  cases hflag : e.skip
  · have hsame : e.forced = e := by rw [Entry.forced, ← hflag]
    rw [hsame]
  have hof : e.skipOf = true := hskip.symm.trans hflag
  obtain ⟨-, -, -, -, hrop, hxop, haop⟩ := (Entry.skipOf_iff e).1 hof
  have hop : e.rop ≠ .ios := by rcases hrop with h | h <;> rw [h] <;> decide
  have hx : e.xop ≠ .dec := by rcases hxop with h | h | h <;> rw [h] <;> decide
  have hun := unclaimed_loopStart hof hs
  have hseen : Unseen (loopStart e s).cfg.aluTable e.alu := by rw [loopStart_cfg]; exact hfit haop
  have hstart : (loopStart e s).cyc.cw = s.bc ∧ (loopStart e s).cyc.dm = false := by
    rw [loopStart_cyc hop, if_neg hx]; exact ⟨rfl, decide_eq_false hx⟩
  have hforced : (loopStart e.forced s).cyc.cw = s.bc ∧ (loopStart e.forced s).cyc.dm = false := by
    rw [loopStart_cyc (e := e.forced) hop, if_neg hx]; exact ⟨rfl, decide_eq_false hx⟩
  obtain ⟨d, hpass, hcw, hdm, hctv⟩ := hun.lastPass hseen (loopCount e.forced s) (loopStart e.forced s).cyc
  obtain ⟨hquiet, -⟩ := hun.aluEntry hseen
  have hend : loopEnd e s = loopStart e s := by rw [loopEnd, loopCount, if_pos hflag, pulses_zero]
  have hendForced : loopEnd e.forced s =
      pulses e (loopCount e.forced s) ((loopStart e s).withCyc (loopStart e.forced s).cyc) := by
    rw [← loopStart_forced hof]; rfl
  rw [runMi_eq_terminate hop hs.1, runMi_eq_terminate (e := e.forced) hop hs.1, hend, hendForced]
  have hcarry : ((aluPass e.alu (loopStart e s)).withCyc d).committedCarry = (aluPass e.alu (loopStart e s)).committedCarry := by
    rw [State.committedCarry_of_ctv (s := State.withCyc _ d) hctv, State.committedCarry_of_ctv (s := aluPass _ _) hquiet]
    exact (hcw.trans hforced.1).trans hstart.1.symm
  rw [hpass]
  exact finish_withCyc hstart.2 (hdm.trans hforced.2) hcarry

/-- Settles O40: the logical operations of the reference table leave the carry alone and put a 0 on the computation bus. -/
theorem shiftSkipIsInvisible : Obligations.ShiftSkipIsInvisible := by
  unfold Obligations.ShiftSkipIsInvisible
  intro s e hs htbl hwf
  refine congrArg Host.Outcome.next (runMi_forced hs (Entry.skip_of_wf hwf) fun haop => ?_).symm
  rw [htbl, Entry.alu_of_wf hwf]
  exact unseen_refAlu haop

/-- From the invariant, with tables that pass construction's check, a step without shift-skip is a step (R171, R346). -/
theorem stepWithoutSkip_eq_step {s : State} (hi : s.Inv) (hcheck : skipCheck s.cfg.opTable s.cfg.aluTable = true) :
    stepWithoutSkip s = step s := by
  cases hhold : s.hold with
  | some h => simp only [stepWithoutSkip, step, hhold]
  | none =>
    obtain ⟨-, ⟨-, hcfg, -, -⟩, -, -, -, hholdB, -⟩ := interleave_boundary s
    obtain ⟨-, -, -, hidle, -⟩ := interleave_boundary_inv hi hhold
    have hrest : (interleave true s).AtRest := ⟨hholdB.trans hhold, hidle (hholdB.trans hhold)⟩
    simp only [stepWithoutSkip, step, hhold]
    refine congrArg Host.Outcome.next (runMi_forced (e := decodeEntryBy _ (interleave true s).fetchWord) hrest rfl fun haop => ?_)
    rw [← hcfg] at hcheck
    exact fun cw dm a0 => tableAt_of_skipFits (skipFits_of_skipCheck hcheck haop) cw dm a0

/-- Settles O41: the invariant and the tables stand after every step, and each step is the same in both machines. -/
theorem runsWithoutShiftSkipAgree : Obligations.RunsWithoutShiftSkipAgree := by
  unfold Obligations.RunsWithoutShiftSkipAgree
  intro n
  induction n with
  | zero => exact fun s _ _ => rfl
  | succ n ih =>
    intro s hi hcheck
    have hstep : coreWithoutSkip.step s = core.step s := stepWithoutSkip_eq_step hi hcheck
    simp only [Host.Core.run]
    rw [hstep]
    split
    · next t ht =>
      obtain ⟨⟨-, hcfg, -, -⟩, -⟩ := stepKeepsConfigurationAndOtherCells s t ht
      exact ih t (everyStepKeepsTheInvariant s t hi ht) (by rw [hcfg]; exact hcheck)
    · rfl
    · rfl

end Sys2Proof.Machine
end

section
/-! SUPPORT. Proofs of the family of spec/42_engine_cycle.md, the step and the tests: the word a step runs (R190, R191), the word the model
places (log entry 22), and the qualifier flags (R200, R203 to R205). -/

namespace Sys2Proof.Machine

/-! ### The word a step runs (R190, R191) -/

/-- A step of the engine that is not held is the row MI of the word at `CSA`, after the boundary's transitions (R190, R349). -/
theorem step_of_unheld {s : State} (hs : s.hold = none) :
    step s = exec (.mi (decodeEntryBy s.cfg.opTable (interleave true s).fetchWord)) (interleave true s) := by
  obtain ⟨-, ⟨-, hcfg, -, -⟩, -⟩ := interleave_boundary s
  rw [← hcfg, step, hs]
  rfl

/-- A word placed at `CSA` is the word fetched (R191). -/
theorem State.fetchWord_of_placed {s : State} {w : ControlWord} (h : placedWord s.cs s.csa.toNat = some w) : s.fetchWord = w := by
  rw [State.fetchWord, h]

/-- With nothing scheduled and the default `OPTABLE` a step runs the decoded word at the state itself (R97, R191). -/
theorem step_of_quiet {s : State} (hs : s.hold = none) (hq : s.Quiet) (hops : s.DefaultOps) :
    step s = exec (decodeWord s.fetchWord) s := by
  rw [step_of_unheld hs, interleave_quiet hq, hops]
  rfl

/-- Settles O11: the boundary keeps the configuration, and with nothing scheduled it is nothing. -/
theorem stepRunsTheFetchedWord : Obligations.StepRunsTheFetchedWord := by
  unfold Obligations.StepRunsTheFetchedWord
  exact fun s hs => ⟨step_of_unheld hs, fun hq => by rw [step_of_unheld hs, interleave_quiet hq], fun hq hops => step_of_quiet hs hq hops,
    fun _ hw => State.fetchWord_of_placed hw⟩

/-! ### The word the model places (log entry 22) -/

theorem State.place_hold (s : State) (w : ControlWord) : (s.place w).hold = none := rfl

theorem State.place_quiet {s : State} (h : s.Quiet) (w : ControlWord) : (s.place w).Quiet := by
  simp [State.place, State.Quiet, h]

theorem State.place_fetchWord (s : State) (w : ControlWord) : (s.place w).fetchWord = w :=
  State.fetchWord_of_placed (if_pos rfl)

/-- The next step runs a placed word. -/
theorem step_place {s : State} (hq : s.Quiet) (hops : s.DefaultOps) (w : ControlWord) :
    step (s.place w) = exec (decodeWord w) (s.place w) := by
  have h := step_of_quiet (s.place_hold w) (State.place_quiet hq w) hops
  rwa [State.place_fetchWord] at h

/-- Settles O12: the placed word is fetched, and nothing is in its way. -/
theorem placedWordRunsNext : Obligations.PlacedWordRunsNext := by
  unfold Obligations.PlacedWordRunsNext
  intro s w q hq hops hw
  have hword : s.withFetchWord 32 w.toNat = s.place w := by simp [State.withFetchWord, State.placeBits]
  have hio : s.withFetchWord 16 q.toNat = { s with regs := { s.regs with q := s.regs.q.load q } }.place ioStartWord := by
    simp [State.withFetchWord, State.placeBits]
  rw [hword, hio]
  exact ⟨step_place hq hops w, BitReg.load_word (hw.reg .Q) q,
    step_place (s := { s with regs := { s.regs with q := s.regs.q.load q } }) hq hops ioStartWord⟩

/-! ### The qualifier flags (R200, R203 to R205) -/

/-- Where nothing is scheduled the branch flag records the selected condition of the state as it is (R205, R210). -/
theorem runBrq_quiet {s : State} (h : s.Quiet) : runBrq s = { s with cyc := { s.cyc with brt := s.qual s.qsel } } := by
  rw [runBrq, sampleQual_quiet h]

/-- The four high bits of an address, put together one by one. -/
theorem csAddr_high_bits (v : CsAddr) : BitVec.ofBool (v.getLsbD 7) ++ BitVec.ofBool (v.getLsbD 6) ++ BitVec.ofBool (v.getLsbD 5) ++
    BitVec.ofBool (v.getLsbD 4) = v.extractLsb' 4 4 := by
  revert v; decide

/-- The default selector (R203, D10). -/
theorem State.qsel_of_default {s : State} (h : s.DefaultTests) : s.qsel = s.csa.extractLsb' 4 4 := by
  obtain ⟨hsel, -⟩ := h
  rw [State.qsel, hsel]
  exact csAddr_high_bits s.csa

/-- The default conditions (R204, D11). -/
theorem State.qual_of_default {s : State} (h : s.DefaultTests) (n : BitVec 4) :
    s.qual n = s.condition defaultQualtab[n.toNat] := by
  obtain ⟨-, htab⟩ := h
  rw [State.qual, htab]

/-- Settles O22: the flags by the test where nothing is scheduled, the sixteen conditions one by one. -/
theorem qualifierFlagsTestTheSelectedCondition : Obligations.QualifierFlagsTestTheSelectedCondition := by
  unfold Obligations.QualifierFlagsTestTheSelectedCondition
  intro s
  refine ⟨fun hq => congrArg Host.Outcome.next (runBrq_quiet hq), fun hq ht => congrArg Host.Outcome.next (runIqn_runs hq ht),
    fun hq ht => congrArg Host.Outcome.next (by rw [runIqn_quiet hq, ht]; rfl), fun hdef => ?_⟩
  have hqual := State.qual_of_default hdef
  refine ⟨State.qsel_of_default hdef, hqual 0, hqual 1, hqual 2, hqual 3, hqual 4, hqual 5, hqual 6, hqual 7, hqual 8, hqual 9, hqual 10,
    hqual 11, hqual 12, hqual 13, hqual 14, (hqual 15).trans ?_⟩
  show s.acc.bit 0 = _
  unfold State.acc
  split <;> rfl

end Sys2Proof.Machine
end

section
/-! SUPPORT. The I/O start inside a cycle (spec/44_io_arbiter.md R253 to R275): which registers and which carry an I/O operation leaves as
they were, what the skip operations report, and when the start does not leave the engine held. -/

namespace Sys2Proof.Machine

/-! ### Operations by their code (R98) -/

/-- The operations that move the accumulator and `IOR` (R267 to R270). -/
def transfers : IoOp → Bool
  | .li8 | .li16 | .ot8 | .ot16 => true
  | .stf | .sfc | .stc | .clc | .sfs | .eow | .nopLow _ | .nopHigh _ => false

/-- The operations that may begin a handshake (R264, R267 to R270). -/
def handshakes : IoOp → Bool
  | .stc | .li8 | .li16 | .ot8 | .ot16 => true
  | .stf | .sfc | .clc | .sfs | .eow | .nopLow _ | .nopHigh _ => false

theorem transfers_ofCode_iff (c : BitVec 4) : transfers (IoOp.ofCode c) = true ↔ c = 5 ∨ c = 6 ∨ c = 7 ∨ c = 8 := by
  revert c; decide
theorem handshakes_ofCode_iff (c : BitVec 4) : handshakes (IoOp.ofCode c) = true ↔ c ∈ [2, 5, 6, 7, 8] := by
  revert c; decide
theorem ofCode_eq_sfc_iff (c : BitVec 4) : IoOp.ofCode c = .sfc ↔ c = 1 := by
  revert c; decide
theorem ofCode_eq_sfs_iff (c : BitVec 4) : IoOp.ofCode c = .sfs ↔ c = 4 := by
  revert c; decide
theorem ofCode_of_output {c : BitVec 4} (h : c ∈ [7, 8]) : IoOp.ofCode c = .ot8 ∨ IoOp.ofCode c = .ot16 := by
  revert c; decide

/-- The operation `Q` holds (R26, R260). -/
def State.opInQ (s : State) : IoWord :=
  ⟨IoOp.ofCode s.qIoop, s.qSc, s.holdClear⟩

/-- The three things an I/O start can do: dispatch the operation in `Q`, acknowledge a request, nothing (R259). -/
theorem arbiterExec_cases (s : State) :
    s.qIoe = true ∧ arbiterExec s = dispatchIo s.opInQ s ∨
    s.qIoe = false ∧ s.serviceRequested = true ∧ arbiterExec s = serviceRequestAcknowledge s ∨
    s.qIoe = false ∧ s.serviceRequested = false ∧ arbiterExec s = s := by
  have hword := s.ioWord_eq
  cases hioe : s.qIoe with
  | true =>
    rw [hioe, if_pos rfl] at hword
    exact .inl ⟨rfl, by rw [arbiterExec, hword]; rfl⟩
  | false =>
    rw [hioe, if_neg (by decide)] at hword
    cases hreq : s.serviceRequested with
    | true => exact .inr (.inl ⟨rfl, rfl, by rw [arbiterExec, hword, runIoAck, hreq, if_pos rfl]⟩)
    | false => exact .inr (.inr ⟨rfl, rfl, by rw [arbiterExec, hword, runIoAck, hreq, if_neg (by decide)]⟩)

/-! ### What the parts of an operation leave (R259, R271 to R275) -/

@[simp] theorem Regs.reg_iorByte (r : Regs) (v : Bool) (n : RegName) : Regs.reg { r with iorByte := v } n = r.reg n := by
  cases n <;> rfl

theorem Regs.reg_ior {n : RegName} (h : n ≠ .IOR) (r : Regs) (x : BitReg) : Regs.reg { r with ior := x } n = r.reg n := by
  cases n <;> first | rfl | exact absurd rfl h

/-- With nothing scheduled the entry block only addresses the device (R259). -/
theorem ioBegin_quiet {s : State} (h : s.Quiet) (sc : BitVec 5) : ioBegin sc s = leaveAcknowledged sc s :=
  interleave_quiet (s := leaveAcknowledged sc s) h false

/-- The entry block addresses the device, and other agents leave the addressed code (R259, R276). -/
theorem ioBegin_sel (sc : BitVec 5) (s : State) : (ioBegin sc s).arb.sel = sc.setWidth 4 := by
  obtain ⟨-, -, -, hsel, -⟩ := interleave_latches (leaveAcknowledged sc s)
  exact hsel

/-- A handshake leaves the schedule of the other agents (R275). -/
theorem setCEO_env (dir : Dir) (s : State) : (setCEO dir s).ext.env = s.ext.env := by
  by_cases h : lookupDevices s.arb.directory s.arb.sel = []
  · rw [setCEO_absent h]; simp
  · cases dir
    · rw [setCEO_in h]
    · rw [setCEO_out h]

theorem handshake_env (dir : Dir) (h : Hold) (s : State) : (handshake dir h s).ext.env = s.ext.env := by
  unfold handshake; dsimp only; split <;> simp [setCEO_env]

theorem offer_env (v : Word) (hc : Bool) (s : State) : (offer v hc s).ext.env = s.ext.env := by
  unfold offer; dsimp only; split <;> simp [handshake_env]

/-- A handshake after which nothing is transferred moves no register (R264, R275). -/
theorem handshake_none_regs (dir : Dir) (c : Bool) (s : State) : (handshake dir ⟨.none, c⟩ s).regs = s.regs := by
  unfold handshake; dsimp only; split <;> simp [ioFinish]

theorem offer_regs (v : Word) (hc : Bool) (s : State) : (offer v hc s).regs = s.regs := by
  unfold offer; dsimp only; split <;> simp [handshake_none_regs]

/-- The evaluations of a transfer leave the mode of the cycle (R274). -/
@[simp] theorem transferPass_dm (g : RegName → Bool) (s : State) : (transferPass g s).cyc.dm = s.cyc.dm := by
  unfold transferPass; cases s.cyc.ir <;> rfl
@[simp] theorem transferPasses_dm (g : RegName → Bool) (n : Nat) (s : State) : (transferPasses g n s).cyc.dm = s.cyc.dm := by
  induction n generalizing s with
  | zero => rfl
  | succ n ih => rw [transferPasses, ih, transferPass_dm]
@[simp] theorem transfer_dm (n : Nat) (dir : Dir) (aux : Bool) (s : State) : (transfer n dir aux s).cyc.dm = s.cyc.dm := by
  simp [transfer]
@[simp] theorem ioFinish_dm (h : Hold) (s : State) : (ioFinish h s).cyc.dm = s.cyc.dm := by
  unfold ioFinish; cases h.post <;> simp [latchAndShift]
@[simp] theorem handshake_dm (dir : Dir) (h : Hold) (s : State) : (handshake dir h s).cyc.dm = s.cyc.dm := by
  unfold handshake; dsimp only; split <;> simp
@[simp] theorem offer_dm (v : Word) (hc : Bool) (s : State) : (offer v hc s).cyc.dm = s.cyc.dm := by
  unfold offer; dsimp only; split <;> simp

/-! ### The registers a transfer moves (R274) -/

/-- The registers in no transfer's set. -/
abbrev NotTransferred (n : RegName) : Prop :=
  n ≠ .A ∧ n ≠ .B ∧ n ≠ .IOR ∧ n ≠ .AUX

theorem NotTransferred.ne_accOf {n : RegName} (h : NotTransferred n) (ab : Bool) : n ≠ accOf ab := by
  obtain ⟨ha, hb, -, -⟩ := h
  exact Machine.ne_accOf ha hb

theorem Regs.reg_outside {n : RegName} (h : NotTransferred n) (r : Regs) (a b ior aux : BitReg) :
    Regs.reg { r with a := a, b := b, ior := ior, aux := aux } n = r.reg n := by
  obtain ⟨ha, hb, hior, haux⟩ := h
  cases n <;> first | rfl | contradiction

/-- A pulse of a set moves no register outside it (R125). -/
theorem Regs.pulse_reg_outside {g : RegName → Bool} {n : RegName} (h : g n = false) (tbus : Bool) (r : Regs) :
    (r.pulse g tbus).reg n = r.reg n := by
  rw [Regs.pulse_eq]
  cases n <;> simp [Regs.reg, h]

theorem transferPasses_reg_outside {g : RegName → Bool} {n : RegName} (h : g n = false) (k : Nat) (s : State) :
    (transferPasses g k s).regs.reg n = s.regs.reg n := by
  induction k generalizing s with
  | zero => rfl
  | succ k ih => rw [transferPasses, ih, aluExec_pass, Regs.pulse_reg_outside h]

section
variable {n : RegName} (h : NotTransferred n)
include h

theorem wireTransfer_reg_outside (dir : Dir) (aux : Bool) (s : State) : (wireTransfer dir aux s).regs.reg n = s.regs.reg n := by
  have hacc := State.setAcc_reg_other (h.ne_accOf s.ab).symm (wireAcc dir s.accName s.acc)
  exact (Regs.reg_outside h _ _ _ _ _).trans hacc

theorem transfer_reg_outside (k : Nat) (dir : Dir) (aux : Bool) (s : State) : (transfer k dir aux s).regs.reg n = s.regs.reg n := by
  have ⟨_, _, hior, haux⟩ := h
  have hout : transferSet aux s.accName n = false := by
    simp [transferSet, State.accName_eq, h.ne_accOf, hior, haux]
  have hmoved := transferPasses_reg_outside hout k (wireTransfer dir aux s)
  rw [wireTransfer_reg_outside h] at hmoved
  exact (Regs.reg_outside h _ _ _ _ _).trans hmoved

theorem ioFinish_reg_outside (f : Hold) (s : State) : (ioFinish f s).regs.reg n = s.regs.reg n := by
  have ⟨_, _, hior, _⟩ := h
  unfold ioFinish
  cases f.post <;> simp [latchAndShift, transfer_reg_outside h, Regs.reg_ior hior]

theorem handshake_reg_outside (dir : Dir) (f : Hold) (s : State) : (handshake dir f s).regs.reg n = s.regs.reg n := by
  unfold handshake; dsimp only; split <;> simp [ioFinish_reg_outside h]

/-- No I/O operation moves `T`, `M`, `P`, `Q` or `E` (R262 to R273). -/
theorem dispatchIo_reg_outside (i : IoWord) (s : State) : (dispatchIo i s).regs.reg n = s.regs.reg n := by
  unfold dispatchIo
  cases i.op with
  | stf | sfc | clc | sfs | nopLow c | nopHigh c =>
    simp [runIoStf, runIoSfc, runIoClc, runIoSfs, runIoNopLow, runIoNopHigh]
  | eow => simp [runIoEow, endService]
  | stc | li8 | li16 => simp [runIoStc, runIoLi8, runIoLi16, handshake_reg_outside h]
  | ot8 | ot16 => simp [runIoOt8, runIoOt16, offer_regs, transferOut, transfer_reg_outside h]

theorem arbiterExec_reg_outside (s : State) : (arbiterExec s).regs.reg n = s.regs.reg n := by
  have ⟨_, _, hior, _⟩ := h
  rcases arbiterExec_cases s with ⟨-, hrun⟩ | ⟨-, -, hrun⟩ | ⟨-, -, hrun⟩ <;> rw [hrun]
  · exact dispatchIo_reg_outside h _ s
  · exact Regs.reg_ior hior _ _

end

/-- An operation that transfers nothing moves no register (R262 to R266, R271, R273). -/
theorem dispatchIo_reg_of_not_transfers {i : IoWord} (h : transfers i.op = false) (s : State) (n : RegName) :
    (dispatchIo i s).regs.reg n = s.regs.reg n := by
  unfold dispatchIo
  cases hop : i.op with
  | li8 | li16 | ot8 | ot16 => rw [hop] at h; cases h
  | stc => simp [runIoStc, handshake_none_regs]
  | eow => simp [runIoEow, endService]
  | stf | sfc | clc | sfs | nopLow c | nopHigh c =>
    simp [runIoStf, runIoSfc, runIoClc, runIoSfs, runIoNopLow, runIoNopHigh]

/-- The I/O start of an operation that transfers nothing, or of none, moves `IOR` alone, where it acknowledges a request (R257, R259). -/
theorem arbiterExec_reg_of_not_transfers {s : State} (h : s.qIoe = false ∨ transfers (IoOp.ofCode s.qIoop) = false) {n : RegName}
    (hn : n ≠ .IOR ∨ s.qIoe = true ∨ s.serviceRequested = false) : (arbiterExec s).regs.reg n = s.regs.reg n := by
  rcases arbiterExec_cases s with ⟨hioe, hrun⟩ | ⟨hioe, hreq, hrun⟩ | ⟨-, -, hrun⟩ <;> rw [hrun]
  · exact dispatchIo_reg_of_not_transfers (h.resolve_left (by simp [hioe])) s n
  · exact Regs.reg_ior (hn.resolve_right (by simp [hioe, hreq])) _ _

/-! ### What the I/O start leaves of the carry, the mode and the schedule -/

/-- The flag a skip operation reports of the addressed device, absent devices by `ABSENT_READY` (R253, R255, R263, R266). -/
def State.reportedFlag (s : State) (sc : BitVec 5) : Bool :=
  if s.addressed sc = [] then s.cfg.absentReady else s.arb.rdy

theorem leaveAcknowledged_flag (s : State) (sc : BitVec 5) : (leaveAcknowledged sc s).flag = s.reportedFlag sc := by
  have hpresent : (leaveAcknowledged sc s).present = !(s.addressed sc).isEmpty := rfl
  rw [State.flag, hpresent, State.reportedFlag]
  cases s.addressed sc <;> rfl

/-- `BC` after a dispatched operation: IO_SFC and IO_SFS report in it, no other writes it (R263, R266). -/
theorem dispatchIo_bc (i : IoWord) {s : State} (hq : s.Quiet) :
    (dispatchIo i s).bc = if i.op = .sfc then !s.reportedFlag i.sc else if i.op = .sfs then s.reportedFlag i.sc else s.bc := by
  unfold dispatchIo
  cases i.op with
  | sfc | sfs => simp [runIoSfc, runIoSfs, ioBegin_quiet hq, leaveAcknowledged_flag]
  | stf | clc | eow | nopLow c | nopHigh c => simp [runIoStf, runIoClc, runIoEow, runIoNopLow, runIoNopHigh]
  | stc | li8 | li16 | ot8 | ot16 => simp [runIoStc, runIoLi8, runIoLi16, runIoOt8, runIoOt16]

theorem arbiterExec_bc {s : State} (hq : s.Quiet) :
    (arbiterExec s).bc = if s.qIoe = true ∧ s.qIoop = 1 then !s.reportedFlag s.qSc
      else if s.qIoe = true ∧ s.qIoop = 4 then s.reportedFlag s.qSc else s.bc := by
  rcases arbiterExec_cases s with ⟨hioe, hrun⟩ | ⟨hioe, -, hrun⟩ | ⟨hioe, -, hrun⟩ <;> rw [hrun]
  · simpa [hioe, State.opInQ, ofCode_eq_sfc_iff, ofCode_eq_sfs_iff] using dispatchIo_bc s.opInQ hq
  · simp [hioe]
  · simp [hioe]

@[simp] theorem dispatchIo_dm (i : IoWord) (s : State) : (dispatchIo i s).cyc.dm = s.cyc.dm := by
  unfold dispatchIo
  cases i.op with
  | stf | sfc | clc | sfs | eow | nopLow c | nopHigh c =>
    simp [runIoStf, runIoSfc, runIoClc, runIoSfs, runIoEow, runIoNopLow, runIoNopHigh]
  | stc | li8 | li16 | ot8 | ot16 => simp [runIoStc, runIoLi8, runIoLi16, runIoOt8, runIoOt16, transferOut]

@[simp] theorem arbiterExec_dm (s : State) : (arbiterExec s).cyc.dm = s.cyc.dm := by
  rcases arbiterExec_cases s with ⟨-, hrun⟩ | ⟨-, -, hrun⟩ | ⟨-, -, hrun⟩ <;> rw [hrun]
  · exact dispatchIo_dm _ s
  · rfl

/-- With nothing scheduled nothing is scheduled after the start. -/
theorem dispatchIo_quiet (i : IoWord) {s : State} (hq : s.Quiet) : (dispatchIo i s).Quiet := by
  have hbegin : (ioBegin i.sc s).ext.env = [] := by rw [ioBegin_quiet hq]; exact hq
  unfold dispatchIo
  cases i.op with
  | stf | sfc | clc | sfs | eow | nopLow c | nopHigh c =>
    simpa [State.Quiet, runIoStf, runIoSfc, runIoClc, runIoSfs, runIoEow, runIoNopLow, runIoNopHigh] using hbegin
  | stc | li8 | li16 => simpa [State.Quiet, runIoStc, runIoLi8, runIoLi16, handshake_env] using hbegin
  | ot8 | ot16 => simpa [State.Quiet, runIoOt8, runIoOt16, offer_env] using hbegin

theorem arbiterExec_quiet {s : State} (hq : s.Quiet) : (arbiterExec s).Quiet := by
  rcases arbiterExec_cases s with ⟨-, hrun⟩ | ⟨-, -, hrun⟩ | ⟨-, -, hrun⟩ <;> rw [hrun]
  · exact dispatchIo_quiet _ hq
  · exact hq
  · exact hq

/-! ### When the start does not hold the engine (R253, R275, R278) -/

theorem dispatchIo_hold_of_not_handshakes {i : IoWord} (h : handshakes i.op = false) (s : State) : (dispatchIo i s).hold = s.hold := by
  unfold dispatchIo
  cases hop : i.op with
  | stc | li8 | li16 | ot8 | ot16 => rw [hop] at h; cases h
  | stf | sfc | clc | sfs | eow | nopLow c | nopHigh c =>
    simp [runIoStf, runIoSfc, runIoClc, runIoSfs, runIoEow, runIoNopLow, runIoNopHigh]

/-- An output of the class INTERNAL has no handshake (R278). -/
theorem offer_internal {s : State} (h : outClass s.cfg s.arb.sel = .internal) (v : Word) (hc : Bool) : (offer v hc s).hold = s.hold := by
  unfold offer
  dsimp only
  rw [h]
  simp

theorem dispatchIo_hold_of_internal {i : IoWord} (hop : i.op = .ot8 ∨ i.op = .ot16) {s : State}
    (h : outClass s.cfg (i.sc.setWidth 4) = .internal) : (dispatchIo i s).hold = s.hold := by
  unfold dispatchIo
  rcases hop with hop | hop <;> rw [hop]
  · simp [runIoOt8, offer_internal, ioBegin_sel, h]
  · simp [runIoOt16, offer_internal, ioBegin_sel, h]

/-- The four ways of `StartsUnheld`: no operation, no handshake, an output of the class INTERNAL, no device that stays busy. -/
theorem arbiterExec_unheld {s : State} (hq : s.Quiet) (hs : s.hold = none) (h : s.StartsUnheld) : (arbiterExec s).hold = none := by
  rcases arbiterExec_cases s with ⟨hioe, hrun⟩ | ⟨-, -, hrun⟩ | ⟨-, -, hrun⟩ <;> rw [hrun]
  · rcases h with hno | hcode | ⟨hcode, hclass⟩ | hbusy
    · simp [hioe] at hno
    · have hop : handshakes (IoOp.ofCode s.qIoop) = false :=
        Bool.eq_false_iff.2 fun h => hcode ((handshakes_ofCode_iff _).1 h)
      exact (dispatchIo_hold_of_not_handshakes hop s).trans hs
    · exact (dispatchIo_hold_of_internal (ofCode_of_output hcode) hclass).trans hs
    · exact (dispatchIo_finished s.opInQ hq hs hbusy).hold
  · exact hs
  · exact hs

end Sys2Proof.Machine
end

section
/-! SUPPORT. Every cycle that is not held, with the I/O start or without (spec/42_engine_cycle.md R190 to R212): what its loop starts from,
what the terminating pass finds, and what the registers, the carry and the address are at its end. -/

namespace Sys2Proof.Machine

/-! ### The state the R-op finds (R191 to R193) -/

/-- The state after the pre-load and the S-op. -/
def beforeR (e : Entry) (s : State) : State :=
  runS e.sop (preload e (beginCycle e s))

section
variable {e : Entry} {s : State}

@[simp] theorem beforeR_ab : (beforeR e s).ab = s.ab := by simp [beforeR]
@[simp] theorem beforeR_bc : (beforeR e s).bc = s.bc := by simp [beforeR]
@[simp] theorem beforeR_arb : (beforeR e s).arb = s.arb := by simp [beforeR]
@[simp] theorem beforeR_cfg : (beforeR e s).cfg = s.cfg := by simp [beforeR]
@[simp] theorem beforeR_hold : (beforeR e s).hold = s.hold := by simp [beforeR]
@[simp] theorem beforeR_ext : (beforeR e s).ext = s.ext := by simp [beforeR]
@[simp] theorem beforeR_dm : (beforeR e s).cyc.dm = false := by simp [beforeR, beginCycle, Cycle.idle]

theorem beforeR_reg (n : RegName) :
    (beforeR e s).regs.reg n = if sSource s.ab e.sop = some n then (s.regs.reg n).enable else s.regs.reg n := by
  rw [beforeR, runS_reg]; simp

/-- A register the S-op does not put on the destination bus is as it was, `Q` always. -/
theorem beforeR_reg_kept {n : RegName} (h : sSource s.ab e.sop ≠ some n) : (beforeR e s).regs.reg n = s.regs.reg n := by
  rw [beforeR_reg, if_neg h]
@[simp] theorem beforeR_q : (beforeR e s).regs.q = s.regs.q :=
  beforeR_reg_kept (n := .Q) (by simp [sSource_eq_some, ne_accOf])

theorem beforeR_bit (n : RegName) (i : Nat) : ((beforeR e s).regs.reg n).bit i = (s.regs.reg n).bit i := by
  rw [beforeR_reg]; split <;> rfl

/-- So the I/O start reads `Q`, the directory and the devices as the cycle found them (R193, R260). -/
@[simp] theorem beforeR_qIoe : (beforeR e s).qIoe = s.qIoe := by simp [State.qIoe]
@[simp] theorem beforeR_qIoop : (beforeR e s).qIoop = s.qIoop := by rw [State.qIoop, beforeR_q, beforeR_cfg]; rfl
@[simp] theorem beforeR_qSc : (beforeR e s).qSc = s.qSc := by rw [State.qSc, beforeR_q, beforeR_cfg]; rfl
@[simp] theorem beforeR_serviceRequested : (beforeR e s).serviceRequested = s.serviceRequested := by simp [State.serviceRequested]
@[simp] theorem beforeR_addressed (sc : BitVec 5) : (beforeR e s).addressed sc = s.addressed sc := by simp [State.addressed]
@[simp] theorem beforeR_reportedFlag (sc : BitVec 5) : (beforeR e s).reportedFlag sc = s.reportedFlag sc := by
  simp [State.reportedFlag]
@[simp] theorem beforeR_answersBusy (sc : BitVec 5) : (beforeR e s).answersBusy sc = s.answersBusy sc := by
  simp [State.answersBusy, State.nextAnswers_congr beforeR_ext]

theorem beforeR_quiet (h : s.Quiet) : (beforeR e s).Quiet := by rwa [State.Quiet, beforeR_ext]
theorem beforeR_startsUnheld (h : s.StartsUnheld) : (beforeR e s).StartsUnheld := by simpa [State.StartsUnheld] using h

/-! ### The state after step 3 -/

theorem cycleFront_eq : cycleFront e s = runR e.rop (beforeR e s) := rfl
theorem cycleFront_of_ios (h : e.rop = .ios) : cycleFront e s = arbiterExec (beforeR e s) := by rw [cycleFront_eq, h]; rfl

/-- A word does not leave the engine held where it has no I/O start, or one that starts so (R275). -/
theorem cycleFront_unheld (hs : s.hold = none) (h : e.rop ≠ .ios ∨ s.Quiet ∧ s.StartsUnheld) : (cycleFront e s).hold = none := by
  by_cases hop : e.rop = .ios
  · obtain ⟨hq, hstart⟩ := h.resolve_left (not_not_intro hop)
    rw [cycleFront_of_ios hop]
    exact arbiterExec_unheld (beforeR_quiet hq) (by simpa using hs) (beforeR_startsUnheld hstart)
  · rw [cycleFront_hold hop, hs]

theorem cycleFront_quiet (h : s.Quiet) : (cycleFront e s).Quiet := by
  by_cases hop : e.rop = .ios
  · rw [cycleFront_of_ios hop]; exact arbiterExec_quiet (beforeR_quiet h)
  · obtain ⟨-, hext⟩ := runR_arb hop (beforeR e s)
    rw [State.Quiet, cycleFront_eq, hext]; exact beforeR_quiet h

theorem cycleFront_dm : (cycleFront e s).cyc.dm = false := by
  by_cases hop : e.rop = .ios
  · rw [cycleFront_of_ios hop]; simp
  · rw [cycleFront_eq, runR_cyc hop]; split <;> simp

/-- `BC` after step 3: the skip operations of an I/O start report in it (R263, R266). -/
theorem cycleFront_bc_of_ios (hop : e.rop = .ios) (hq : s.Quiet) :
    (cycleFront e s).bc = if s.qIoe = true ∧ s.qIoop = 1 then !s.reportedFlag s.qSc
      else if s.qIoe = true ∧ s.qIoop = 4 then s.reportedFlag s.qSc else s.bc := by
  rw [cycleFront_of_ios hop, arbiterExec_bc (beforeR_quiet hq), beforeR_qIoe, beforeR_qIoop, beforeR_qSc, beforeR_reportedFlag, beforeR_bc]
theorem cycleFront_bc (hop : e.rop ≠ .ios) : (cycleFront e s).bc = s.bc := by
  rw [cycleFront_eq, runR_bc hop, beforeR_bc]

/-- The I/O start leaves `T`, `M`, `P`, `Q` and `E` as the S-op left them. -/
theorem cycleFront_reg_of_ios (hop : e.rop = .ios) {n : RegName} (hn : NotTransferred n) :
    (cycleFront e s).regs.reg n = (beforeR e s).regs.reg n := by
  rw [cycleFront_of_ios hop, arbiterExec_reg_outside hn]

/-- A word that does not drive `Q` leaves it as it was, up to step 3. -/
theorem cycleFront_q (hop : e.rop ≠ .q) : (cycleFront e s).regs.q = s.regs.q := by
  by_cases hios : e.rop = .ios
  · exact (cycleFront_reg_of_ios (n := .Q) hios (by decide)).trans beforeR_q
  · have hreg := runR_reg hios (beforeR e s) .Q
    simp only [rSource_eq_some, hop, ne_accOf, reduceCtorEq, and_false, false_and, or_false, if_false, ne_eq, not_false_eq_true] at hreg
    exact hreg.trans beforeR_q

/-! ### The state the loop starts from (R194 to R201) -/

/-- Steps 4 and 5 bind registers and move none. -/
theorem afterSetup_bit (n : RegName) (i : Nat) : ((afterSetup e s).regs.reg n).bit i = ((cycleFront e s).regs.reg n).bit i := by
  rw [afterSetup, runX_reg, armTargets_reg]
  split <;> split <;> rfl

theorem afterSetup_quiet (h : s.Quiet) : (afterSetup e s).Quiet := by
  simpa [State.Quiet, afterSetup] using cycleFront_quiet h

theorem loopStart_bit (n : RegName) (i : Nat) : ((loopStart e s).regs.reg n).bit i = ((cycleFront e s).regs.reg n).bit i := by
  rw [loopStart_regs, afterSetup_bit]

theorem loopStart_quiet (h : s.Quiet) : (loopStart e s).Quiet := by
  obtain ⟨-, hext⟩ := tripCount_quiet (e := e) (.inl (afterSetup_quiet h))
  rw [State.Quiet, loopStart, aluInit_ext, hext]
  exact afterSetup_quiet h

theorem afterSetup_dm : (afterSetup e s).cyc.dm = decide (e.xop = .dec) := by
  rw [afterSetup, runX_cyc, armTargets_cyc]
  split <;> simp [*, cycleFront_dm]

theorem loopStart_dm : (loopStart e s).cyc.dm = decide (e.xop = .dec) := by
  rw [← afterSetup_dm (s := s), loopStart, aluInit, tripCount_cyc]

theorem loopStart_bc_front : (loopStart e s).bc = (cycleFront e s).bc := by simp [loopStart, afterSetup]

/-- The carry-in of the loop is that of its mode (R201, R221). -/
theorem loopStart_cw : (loopStart e s).cyc.cw = if e.xop = .dec then s.dc else (cycleFront e s).bc := by
  have hdm : (tripCount e (afterSetup e s)).cyc.dm = decide (e.xop = .dec) := by rw [tripCount_cyc]; exact afterSetup_dm
  have hdc : (afterSetup e s).dc = s.dc := by simp [afterSetup]
  have hbc : (afterSetup e s).bc = (cycleFront e s).bc := by simp [afterSetup]
  simp [loopStart, aluInit, hdm, hdc, hbc]

/-- A register that is not fed starts the loop as step 3 left it (R194, R195). -/
theorem loopStart_reg_of_not_fed {n : RegName} (h : ¬ Feeds e s.ab n) : (loopStart e s).regs.reg n = (cycleFront e s).regs.reg n := by
  simp only [Feeds, not_or] at h
  obtain ⟨hx, ht, hm⟩ := h
  rw [loopStart_regs, afterSetup, runX_reg, armTargets_reg, armTargets_ab, cycleFront_ab, if_neg hx, if_neg (not_or.2 ⟨ht, hm⟩)]

/-! ### The terminating pass (R205) -/

/-- The state after the last evaluation, as the tests and the commits of the terminating pass find it. -/
def lastPass (e : Entry) (s : State) : State :=
  aluPass e.alu (loopEnd e s)

@[simp] theorem lastPass_regs : (lastPass e s).regs = (loopEnd e s).regs := rfl
@[simp] theorem lastPass_csa : (lastPass e s).csa = s.csa := by
  simp [lastPass, loopEnd, pulses_keep e _ _ State.csa fun _ => rfl]
@[simp] theorem lastPass_dc : (lastPass e s).dc = s.dc := by simp [lastPass]
@[simp] theorem lastPass_cfg : (lastPass e s).cfg = s.cfg := by simp [lastPass]
theorem lastPass_ab : (lastPass e s).ab = if e.xop = .cab then !s.ab else s.ab := loopEnd_ab
theorem lastPass_bc : (lastPass e s).bc = (cycleFront e s).bc := by simp [lastPass, loopEnd, loopStart_bc_front]
theorem lastPass_dm : (lastPass e s).cyc.dm = decide (e.xop = .dec) := by
  have h : (lastPass e s).cyc.dm = (loopEnd e s).cyc.dm := rfl
  rw [h, loopEnd, pulses_dm, loopStart_dm]
theorem lastPass_quiet (h : s.Quiet) : (lastPass e s).Quiet := by
  have hext : (lastPass e s).ext = (loopStart e s).ext := by simp [lastPass, loopEnd]
  rw [State.Quiet, hext]
  exact loopStart_quiet h
theorem lastPass_widths : (lastPass e s).regs.widths = s.regs.widths := by
  have h : (loopEnd e s).regs.widths = (loopStart e s).regs.widths :=
    pulses_keep e _ _ (·.regs.widths) fun v => by simp
  rw [lastPass_regs, h]
  simp [loopStart, afterSetup]

/-- The last evaluation under the rule that commits the working carry. -/
theorem lastPass_committedCarry (h : s.cfg.carryCommit = .working) : (lastPass e s).committedCarry = (loopEnd e s).cyc.cw :=
  State.committedCarry_working (by simp [h])

/-- `Q` after the terminating pass: X_QB writes the computation-bus bit at `QB_POS` (R207). -/
theorem terminate_q (v : State) : (terminate e v).regs.q =
    if e.xop = .qb then { v.regs.q with val := setBit v.cfg.qLayout.qb v.buses.tbus v.regs.q.val } else v.regs.q := by
  have hspecial : ∀ w : State, w.regs = v.regs → w.cfg = v.cfg → w.buses = v.buses → (specialCase e.xop w).regs.q =
      if e.xop = .qb then { v.regs.q with val := setBit v.cfg.qLayout.qb v.buses.tbus v.regs.q.val } else v.regs.q := by
    intro w hregs hcfg hbuses
    cases e.xop with
    | qb => rw [← hregs, ← hcfg, ← hbuses]; rfl
    | _ => rw [← hregs]; rfl
  unfold terminate
  dsimp only
  rw [commitCarry_regs]
  split
  · exact hspecial _ (by simp) (by simp) (by simp)
  · exact hspecial _ rfl rfl rfl

/-! ### The end of a cycle that is not held (R207 to R212) -/

section
variable (hu : (cycleFront e s).hold = none)
include hu

theorem runMi_of_unheld : runMi e s = endCycle (nextAddress e (decimalCommit e.aop (terminate e (lastPass e s)))) := by
  have hrun : runMi e s = cycleBack e (cycleFront e s) := by simp [runMi, hu]
  rw [hrun, lastPass, ← shiftLoop_eq_terminate]
  rfl

/-- Every such cycle ends between two cycles (R30, R31, R212). -/
theorem runMi_atRest : (runMi e s).AtRest := by
  have hrun : runMi e s = cycleBack e (cycleFront e s) := by simp [runMi, hu]
  rw [hrun]
  exact ⟨by rw [cycleBack_hold, hu], cycleBack_idle e _⟩

/-- The address moves by the mask of the branch flag (R211). -/
theorem runMi_csa : (runMi e s).csa = s.csa ^^^ nextMask e (terminate e (lastPass e s)).cyc.brt := by
  simp [runMi_of_unheld hu]

/-- With a branch request and nothing scheduled the flag is the selected condition after the last evaluation (R205, R210). -/
theorem runMi_csa_of_brq (hb : e.brq = true) (hq : s.Quiet) :
    (runMi e s).csa = s.csa ^^^ nextMask e ((lastPass e s).qual (lastPass e s).qsel) := by
  rw [runMi_csa hu, terminate, if_pos hb, commitCarry_cyc, specialCase_cyc, runBrq_quiet (lastPass_quiet hq)]

omit hu in
theorem terminate_lastPass_dm : (terminate e (lastPass e s)).cyc.dm = decide (e.xop = .dec) := by
  rw [terminate_cyc]; exact lastPass_dm

/-- A register after the cycle is as it was before the last evaluation, but for the bit of X_QB and the decimal digit (R207, R209). -/
theorem runMi_reg_of_unheld {n : RegName} (hq : n ≠ .Q ∨ e.xop ≠ .qb) (hd : e.xop ≠ .dec ∨ n ≠ accOf s.ab) :
    (runMi e s).regs.reg n = ((loopEnd e s).regs.reg n).release n := by
  have hdec : (terminate e (lastPass e s)).cyc.dm = false ∨ n ≠ accOf (terminate e (lastPass e s)).ab := by
    rw [terminate_lastPass_dm, terminate_ab, lastPass_ab, decide_eq_false_iff_not]
    by_cases hx : e.xop = .dec
    · exact .inr (by simpa [hx] using hd)
    · exact .inl hx
  rw [runMi_of_unheld hu, endCycle_regs, nextAddress_regs, Regs.release_reg, decimalCommit_reg hdec, terminate_reg hq, lastPass_regs]

/-- `Q` bit by bit: X_QB writes the last computation-bus bit at `QB_POS` and no other (R165, R207). -/
theorem runMi_q_bit (i : Nat) : (runMi e s).regs.q.bit i =
    if e.xop = .qb ∧ i = s.cfg.qLayout.qb ∧ s.cfg.qLayout.qb < (loopEnd e s).regs.q.width then busBit e (loopEnd e s)
    else (loopEnd e s).regs.q.bit i := by
  have hdec : (decimalCommit e.aop (terminate e (lastPass e s))).regs.q = (terminate e (lastPass e s)).regs.q :=
    decimalCommit_reg (n := .Q) (.inr (ne_accOf (by decide) (by decide))) _
  have hbit : (runMi e s).regs.q.bit i = (terminate e (lastPass e s)).regs.q.bit i := by
    rw [runMi_of_unheld hu, endCycle_regs, nextAddress_regs, ← hdec]; rfl
  rw [hbit, terminate_q]
  by_cases hx : e.xop = .qb
  · simp only [hx, if_true, true_and, lastPass_cfg]
    exact getLsbD_setBit s.cfg.qLayout.qb (lastPass e s).buses.tbus (loopEnd e s).regs.q.val i
  · simp [hx]

/-- The binary carry: as step 3 left it in decimal mode, else the committed one (R208). -/
theorem runMi_bc_of_unheld : (runMi e s).bc = if e.xop = .dec then (cycleFront e s).bc else (lastPass e s).committedCarry := by
  rw [runMi_of_unheld hu, endCycle_bc, nextAddress_bc, decimalCommit_bc, terminate_bc, lastPass_dm, lastPass_bc]
  simp

theorem runMi_ab_of_unheld : (runMi e s).ab = (lastPass e s).ab := by simp [runMi_of_unheld hu]

/-- With nothing scheduled the tests change nothing of the arbiter (R349). -/
theorem runMi_arb_of_quiet (hq : s.Quiet) : (runMi e s).arb = (lastPass e s).arb := by
  obtain ⟨harb, -⟩ := terminate_quiet (e := e) (.inl (lastPass_quiet (e := e) hq))
  rw [runMi_of_unheld hu, endCycle_arb, nextAddress_arb, decimalCommit_arb, harb]

/-! A loop without a pulse (R200). -/

variable (h0 : loopCount e s = 0)
include h0

omit hu in
theorem loopEnd_of_no_pulse : loopEnd e s = loopStart e s := by rw [loopEnd, h0, pulses_zero]

/-- Without a pulse a register is as step 3 left it, but for the bit of X_QB and the decimal digit. -/
theorem runMi_bit_of_no_pulse {n : RegName} (hq : n ≠ .Q ∨ e.xop ≠ .qb) (hd : e.xop ≠ .dec ∨ n ≠ accOf s.ab) (i : Nat) :
    ((runMi e s).regs.reg n).bit i = ((cycleFront e s).regs.reg n).bit i := by
  rw [runMi_reg_of_unheld hu hq hd, loopEnd_of_no_pulse h0, BitReg.release_bit, loopStart_bit]

/-- Without a pulse the carry is as step 3 left it, under the rule that commits the working carry (R208). -/
theorem runMi_bc_of_no_pulse (hw : s.cfg.carryCommit = .working) : (runMi e s).bc = (cycleFront e s).bc := by
  rw [runMi_bc_of_unheld hu, lastPass_committedCarry hw, loopEnd_of_no_pulse h0, loopStart_cw]
  split <;> rfl

end

end

end Sys2Proof.Machine
end

section
/-! SUPPORT. Proofs of the family of spec/42_engine_cycle.md, whole cycles: completion (R210 to R212, R300), the loop without a pulse (R200,
R348), the special case (R165, R207), and the decimal commit under the unit-source flag (R209). -/

namespace Sys2Proof.Machine

/-! ### Completion (R210 to R212) -/

/-- Settles O27: an engine that step 3 does not hold ends its cycle, and without a branch request the branch flag stays set. -/
theorem controlWordCompletes : Obligations.ControlWordCompletes := by
  unfold Obligations.ControlWordCompletes
  intro s e hs hop
  have hu : (cycleFront e s).hold = none :=
    cycleFront_unheld hs (hop.imp id fun ⟨hq, hbusy⟩ => ⟨hq, .inr (.inr (.inr hbusy))⟩)
  refine ⟨runMi e s, rfl, runMi_atRest hu, fun hb => ?_, fun _ => ?_⟩
  · rw [runMi_csa hu, terminate_brt hb]; rfl
  · rw [runMi_csa hu]
    cases (terminate e (lastPass e s)).cyc.brt
    · exact .inr rfl
    · exact .inl rfl

section
variable {e : Entry} {s : State}

/-! ### A loop without a pulse (R200) -/

theorem loopCount_of_trip (h : (tripCount e (afterSetup e s)).cyc.trip = 0) : loopCount e s = 0 := by
  have htrip : (loopStart e s).cyc.trip = 0 := h
  simp [loopCount, htrip]

/-- The inhibit flag drops the count where the selected condition is false (R200). -/
theorem tripCount_of_inhibited (hi : e.iqn = true) (hq : s.Quiet) (ht : s.qual s.qsel = false) : (tripCount e s).cyc.trip = 0 := by
  unfold tripCount
  dsimp only
  rw [if_pos hi, runIqn_quiet (by exact hq), State.qual_qsel_cyc, ht]
  rfl

/-- The hold condition drops the count of an I/O start, and no flag raises it again (R200, R348). -/
theorem tripCount_of_holdClear (hop : e.rop = .ios) (hc : s.holdClear = true) : (tripCount e s).cyc.trip = 0 := by
  unfold tripCount runIqn
  simp only [hop, hc, beq_self_eq_true, Bool.and_self, if_true]
  split
  · split <;> simp
  · rfl

/-- Before step 7 only `R_RDM` and X_CAB change what a test reads. -/
theorem State.atStepSeven_eq (hr : e.rop ≠ .rdm) (hx : e.xop ≠ .cab) : s.atStepSeven e = s := by
  simp [State.atStepSeven, hr, hx]

/-- Steps 1 to 3 without the I/O start: only `R_RDM` writes a register (R147). -/
theorem cycleFront_bit (hop : e.rop ≠ .ios) (hoff : s.regs.Off) (n : RegName) (i : Nat) :
    ((cycleFront e s).regs.reg n).bit i = ((s.atStepSeven e).regs.reg n).bit i := by
  rw [← afterSetup_bit, afterSetup_reg hop hoff, BitReg.wire_bit]

/-- A word whose inhibit flag meets a false condition makes no pulse (R200). -/
theorem loopCount_of_inhibited (hop : e.rop ≠ .ios) (hoff : s.regs.Off) (hq : s.Quiet) (hi : e.iqn = true)
    (ht : (s.atStepSeven e).qual (s.atStepSeven e).qsel = false) : loopCount e s = 0 :=
  loopCount_of_trip (tripCount_of_inhibited hi (afterSetup_quiet hq) ((afterSetup_test hop hoff).trans ht))

theorem Regs.value_reg (r : Regs) (n : RegName) : r.value n = (r.reg n).nat := by cases n <;> rfl

end

/-- Settles O39: without a pulse everything is as step 3 left it, and that is as it was. -/
theorem inhibitedLoopMovesNoRegister : Obligations.InhibitedLoopMovesNoRegister := by
  unfold Obligations.InhibitedLoopMovesNoRegister
  intro s e hs href hq hi ht hop hrdm hqb hdec hcab
  obtain ⟨hhold, hoff, -⟩ := hs
  have hseven : s.atStepSeven e = s := State.atStepSeven_eq hrdm hcab
  have hu : (cycleFront e s).hold = none := cycleFront_unheld hhold (.inl hop)
  have h0 : loopCount e s = 0 := loopCount_of_inhibited hop hoff hq hi (by rwa [hseven])
  refine ⟨runMi e s, rfl, fun n => ?_, ?_, ?_⟩
  · rw [Regs.value_reg, Regs.value_reg]
    refine BitReg.nat_of_bits fun i => ?_
    rw [runMi_bit_of_no_pulse hu h0 (.inr hqb) (.inl hdec), cycleFront_bit hop hoff, hseven]
  · rw [runMi_bc_of_no_pulse hu h0 href.2, cycleFront_bc hop]
  · rw [runMi_ab hop hhold, if_neg hcab]

/-! ### The hold condition (R200, R348) -/

section
variable {e : Entry} {s : State}

/-- The hold condition is read from `Q` as the cycle found it (R200). -/
theorem afterSetup_holdClear (hop : e.rop = .ios) : (afterSetup e s).holdClear = s.holdClear := by
  have hcfg : (afterSetup e s).cfg = s.cfg := by simp [afterSetup]
  have hbit := afterSetup_bit (e := e) (s := s) .Q s.cfg.qLayout.hc
  rw [State.holdClear, hcfg]
  exact hbit.trans (congrArg (BitReg.bit · s.cfg.qLayout.hc) (cycleFront_q (by rw [hop]; decide)))

theorem loopCount_of_holdClear (hop : e.rop = .ios) (hc : s.holdClear = true) : loopCount e s = 0 :=
  loopCount_of_trip (tripCount_of_holdClear hop ((afterSetup_holdClear hop).trans hc))

/-- A register the I/O operation leaves keeps its value through a cycle without a pulse. -/
theorem runMi_nat_of_front {n : RegName} (hu : (cycleFront e s).hold = none) (h0 : loopCount e s = 0) (hq : n ≠ .Q ∨ e.xop ≠ .qb)
    (hd : e.xop ≠ .dec ∨ n ≠ accOf s.ab) (hfront : (cycleFront e s).regs.reg n = (beforeR e s).regs.reg n) :
    ((runMi e s).regs.reg n).nat = (s.regs.reg n).nat :=
  BitReg.nat_of_bits fun i => by rw [runMi_bit_of_no_pulse hu h0 hq hd, hfront, beforeR_bit]

end

/-- Settles O28: the count of the loop is 0, so each register is as the I/O operation of step 3 left it. -/
theorem holdConditionMakesNoPulse : Obligations.HoldConditionMakesNoPulse := by
  unfold Obligations.HoldConditionMakesNoPulse
  intro s e hs hq hbusy hop hc
  obtain ⟨hhold, -⟩ := hs
  have hu : (cycleFront e s).hold = none := cycleFront_unheld hhold (.inr ⟨hq, .inr (.inr (.inr hbusy))⟩)
  have h0 : loopCount e s = 0 := loopCount_of_holdClear hop hc
  have keep : ∀ n, NotTransferred n → n ≠ .Q → ((runMi e s).regs.reg n).nat = (s.regs.reg n).nat := fun n hn hnq =>
    runMi_nat_of_front hu h0 (.inl hnq) (.inr (hn.ne_accOf s.ab)) (cycleFront_reg_of_ios hop hn)
  refine ⟨runMi e s, rfl, keep .T (by decide) (by decide), keep .M (by decide) (by decide), keep .P (by decide) (by decide),
    keep .E (by decide) (by decide), fun i hi => ?_, runMi_mem_of_not_wtm (by rw [hop]; decide) s, fun hnone => ?_, fun hw => ?_⟩
  · rw [runMi_q_bit hu, if_neg fun ⟨hx, hqb, _⟩ => hi.elim (· hqb) (· hx), loopEnd_of_no_pulse h0]
    exact (loopStart_bit .Q i).trans (congrArg (BitReg.bit · i) (cycleFront_q (by rw [hop]; decide)))
  · have hcode : s.qIoe = false ∨ transfers (IoOp.ofCode s.qIoop) = false :=
      hnone.imp id fun h => by rw [Bool.eq_false_iff, Ne, transfers_ofCode_iff]; simpa using h
    have hfront : ∀ n, n ≠ .IOR ∨ s.qIoe = true ∨ s.serviceRequested = false →
        (cycleFront e s).regs.reg n = (beforeR e s).regs.reg n := fun n hn => by
      rw [cycleFront_of_ios hop, arbiterExec_reg_of_not_transfers (by simpa using hcode) (by simpa using hn)]
    refine ⟨runMi_nat_of_front (n := .AUX) hu h0 (.inl (by decide)) (.inr (ne_accOf (by decide) (by decide)))
        (hfront .AUX (.inl (by decide))), fun hx => ⟨?_, ?_⟩, fun hior => ?_⟩
    · exact runMi_nat_of_front (n := .A) hu h0 (.inl (by decide)) (.inl hx) (hfront .A (.inl (by decide)))
    · exact runMi_nat_of_front (n := .B) hu h0 (.inl (by decide)) (.inl hx) (hfront .B (.inl (by decide)))
    · exact runMi_nat_of_front (n := .IOR) hu h0 (.inl (by decide)) (.inr (ne_accOf (by decide) (by decide))) (hfront .IOR (.inr hior))
  · rw [runMi_bc_of_no_pulse hu h0 hw, cycleFront_bc_of_ios hop hq]
    refine ⟨fun hcode => ?_, fun hioe hcode => ?_, fun hioe hcode => ?_⟩
    · rcases hcode with hioe | ⟨h1, h4⟩
      · simp [hioe]
      · rw [if_neg fun h => h1 h.2, if_neg fun h => h4 h.2]
    · rw [if_pos ⟨hioe, hcode⟩]; rfl
    · rw [if_neg (by simp [hcode]), if_pos ⟨hioe, hcode⟩]; rfl

/-! ### The special case (R165, R207) -/

section
variable {e : Entry} {s : State}

/-- The bits on the two buses after `j` pulses (R141), at every width. -/
theorem loopAt_rbit (hop : e.rop ≠ .ios) (hbus : s.buses = Buses.idle) (j : Nat) :
    (loopAt e s j).rbit = driverBit (loopAt e s j).regs j (rDriver s.ab e.rop) := by
  rw [State.rbit, loopAt, pulses_rbus, pulses_evn, loopStart_buses, afterSetup_rbus hop hbus, loopStart_cyc hop]
  exact congrArg (fun k => driverBit _ k _) (Nat.zero_add j)
theorem loopAt_sbit (hop : e.rop ≠ .ios) (hbus : s.buses = Buses.idle) (j : Nat) :
    (loopAt e s j).sbit = driverBit (loopAt e s j).regs j ((sSource s.ab e.sop).map .reg) := by
  rw [State.sbit, loopAt, pulses_sbus, pulses_evn, loopStart_buses, afterSetup_sbus hop hbus, loopStart_cyc hop]
  exact congrArg (fun k => driverBit _ k _) (Nat.zero_add j)

theorem loopEnd_eq_loopAt : loopEnd e s = loopAt e s (loopCount e s) := rfl

/-- `Q` does not move where it is neither driven nor fed (R206). -/
theorem loopEnd_q (hoff : s.regs.Off) (hr : e.rop ≠ .q) (hx : e.xop ≠ .q) : (loopEnd e s).regs.q = s.regs.q := by
  have hf : ¬ Feeds e s.ab .Q := by simp [Feeds, xTarget_eq_some, hx, ne_accOf]
  have hstart : (loopStart e s).regs.reg .Q = s.regs.reg .Q := (loopStart_reg_of_not_fed hf).trans (cycleFront_q hr)
  have hen : ((loopStart e s).regs.reg .Q).en = false := by rw [hstart]; exact (Regs.off_reg hoff .Q).2
  exact (pulses_off hen).trans hstart

/-- X_QB with `Q` at rest: the last computation-bus bit at `QB_POS`, every other bit as it was (R165, R207). -/
theorem runMi_q_of_special (hu : (cycleFront e s).hold = none) (hoff : s.regs.Off) (hr : e.rop ≠ .q) (hx : e.xop = .qb) {i : Nat}
    (hi : i < s.regs.q.width) :
    (runMi e s).regs.q.bit i = if i = s.cfg.qLayout.qb then busBit e (loopEnd e s) else s.regs.q.bit i := by
  rw [runMi_q_bit hu, loopEnd_q hoff hr (by rw [hx]; decide)]
  by_cases hqb : i = s.cfg.qLayout.qb
  · simp [hx, ← hqb, hi]
  · simp [hqb]

end

/-- Settles O38: under A_IOR the last computation-bus bit is the accumulator's low bit after the pulses, under A_ZERO it is 0. -/
theorem specialCaseWritesOneQualifierBit : Obligations.SpecialCaseWritesOneQualifierBit := by
  unfold Obligations.SpecialCaseWritesOneQualifierBit
  intro s e hs href hwf
  obtain ⟨hhold, hoff, hbus, -⟩ := hs
  have special : e.xop = .qb → e.rop = .zero → ∀ i, i < s.regs.q.width →
      (runMi e s).regs.q.bit i = if i = s.cfg.qLayout.qb then busBit e (loopEnd e s) else s.regs.q.bit i := fun hx hr i hi =>
    runMi_q_of_special (cycleFront_unheld hhold (.inl (by rw [hr]; decide))) hoff (by rw [hr]; decide) hx hi
  refine ⟨fun hx hr hsop ha => ⟨runMi e s, rfl, fun i hi => ?_⟩, fun hx hr ha => ⟨runMi e s, rfl, fun i hi => ?_⟩,
    fun hx hop => ⟨runMi e s, rfl, by rw [runMi_ab hop hhold, if_pos hx]⟩⟩
  · have hop : e.rop ≠ .ios := by rw [hr]; decide
    obtain ⟨-, -, haq⟩ := accOf_plain s.ab
    have hacc : (runMi e s).acc.bit 0 = ((loopEnd e s).regs.reg (accOf s.ab)).bit 0 := by
      rw [runMi_acc hop hhold (by rw [hx]; decide), runMi_reg_of_unheld (cycleFront_unheld hhold (.inl hop)) (.inl haq)
        (.inl (by rw [hx]; decide)), BitReg.release_bit]
    have hlast : busBit e (loopEnd e s) = ((loopEnd e s).regs.reg (accOf s.ab)).bit 0 := by
      rw [loopEnd_eq_loopAt, busBit_ior href hwf ha, loopAt_rbit hop hbus, loopAt_sbit hop hbus, hr, hsop, ← Regs.outBit_reg]
      exact Bool.false_or _
    rw [special hx hr i hi, hacc, hlast]
  · have hlast : busBit e (loopEnd e s) = false := by
      rw [loopEnd, busBit_ref (by rw [loopStart_cfg, href.1]) (Entry.alu_of_wf hwf), ha]; rfl
    rw [special hx hr i hi, hlast]

/-! ### Four pulses in decimal mode (R206, R209, R232 to R234) -/

section
variable {e : Entry} {s u : State}

/-- The nibble takes the bits of the computation bus, the first one lowest after four (R206). -/
theorem pulses_nib_succ (e : Entry) (k : Nat) (u : State) : (pulses e (k + 1) u).cyc.nib =
    BitVec.ofBool (busBit e (pulses e k u)) ++ (pulses e k u).cyc.nib.extractLsb' 1 3 := by
  rw [pulses_succ]; rfl

/-- The last `n` of four pulses are the last `n` passes of the decimal self-check, on the digits that stand on the two buses (R235). -/
theorem digitPasses_pulses (htbl : u.cfg.aluTable = refAlu) (halu : e.alu = e.aop.code) {a b : BitVec 4}
    (hs : ∀ j, j < 4 → (pulses e j u).sbit = a.getLsbD j) (hr : ∀ j, j < 4 → (pulses e j u).rbit = b.getLsbD j) {n : Nat}
    (hn : n ≤ 4) :
    digitPasses refAlu e.aop.code a b n ((pulses e (4 - n) u).cyc.cw, (pulses e (4 - n) u).cyc.nib) =
      ((pulses e 4 u).cyc.cw, (pulses e 4 u).cyc.nib) := by
  induction n with
  | zero => rfl
  | succ n ih =>
    have hcw := pulses_cw_ref htbl halu (3 - n)
    have hnib := pulses_nib_succ e (3 - n) u
    rw [busBit_ref htbl halu, hs _ (by omega), hr _ (by omega)] at hnib
    rw [hs _ (by omega), hr _ (by omega)] at hcw
    rw [show 4 - (n + 1) = 3 - n by omega, digitPasses_succ_ref, ← hcw, ← hnib, show 3 - n + 1 = 4 - n by omega]
    exact ih (by omega)

/-- The `BCD_TABLE` entry of step 10 reads the table, the carry and the nibble alone (R233). -/
theorem State.bcdEntry_congr {t : State} (hcfg : t.cfg = s.cfg) (hcw : t.cyc.cw = s.cyc.cw) (hnib : t.cyc.nib = s.cyc.nib) (op : AOp) :
    t.bcdEntry op = s.bcdEntry op := by
  simp only [State.bcdEntry, hcfg, hcw, hnib]

/-- After four pulses the entry of step 10 holds the digit and the carry of the self-check (R209, R233, R235). -/
theorem bcdEntry_of_four_pulses (hop : e.rop ≠ .ios) (hx : e.xop = .dec) (htbl : s.cfg.aluTable = refAlu) (halu : e.alu = e.aop.code)
    (hcount : loopCount e s = 4) {a b : BitVec 4} (hs : ∀ j, j < 4 → (loopAt e s j).sbit = a.getLsbD j)
    (hr : ∀ j, j < 4 → (loopAt e s j).rbit = b.getLsbD j) :
    (((terminate e (lastPass e s)).bcdEntry e.aop).extractLsb' 0 4, ((terminate e (lastPass e s)).bcdEntry e.aop).getLsbD 4) =
      digitResult refAlu s.cfg.bcdTable e.aop e.aop.code a b s.dc := by
  have hstart : ((loopStart e s).cyc.cw, (loopStart e s).cyc.nib) = (s.dc, 0) := by rw [loopStart_cyc hop, if_pos hx]; rfl
  have hpasses := digitPasses_pulses (u := loopStart e s) (by rw [loopStart_cfg, htbl]) halu hs hr (Nat.le_refl 4)
  rw [Nat.sub_self, pulses_zero, hstart] at hpasses
  have hend : loopEnd e s = pulses e 4 (loopStart e s) := by rw [loopEnd, hcount]
  have hcyc := terminate_cyc e (lastPass e s)
  have hentry : (terminate e (lastPass e s)).bcdEntry e.aop = (loopEnd e s).bcdEntry e.aop :=
    State.bcdEntry_congr (by simp) (by rw [hcyc]; rfl) (by rw [hcyc]; rfl) e.aop
  rw [hentry, digitResult, hpasses, State.bcdEntry, hend]
  simp

/-- With the unit-source flag step 10 writes no register (R209). -/
theorem decimalCommit_regs_of_unit (h : s.cyc.unitf = true) (op : AOp) : (decimalCommit op s).regs = s.regs := by
  simp [decimalCommit, commitDigit, h, apply_ite State.regs]

/-- The unit-source flag is up from step 3 to step 10 (R150, R160). -/
theorem terminate_lastPass_unitf (hu : e.rop = .unit ∨ e.rop = .unitx) : (terminate e (lastPass e s)).cyc.unitf = true := by
  have hop : e.rop ≠ .ios := by rcases hu with h | h <;> rw [h] <;> decide
  have hlast : (lastPass e s).cyc.unitf = (loopEnd e s).cyc.unitf := rfl
  rw [terminate_cyc, hlast, loopEnd, pulses_unitf, loopStart_cyc hop]
  exact decide_eq_true hu

/-- Under the unit constant a register that is neither driven nor fed keeps its value, an accumulator in decimal mode too (R209). -/
theorem runMi_nat_of_unit (hs : s.AtRest) (hu : e.rop = .unit ∨ e.rop = .unitx) {n : RegName} (hnq : n ≠ .Q) (hf : ¬ Feeds e s.ab n)
    (hd : ¬ Drives e s.ab n) : ((runMi e s).regs.reg n).nat = (s.regs.reg n).nat := by
  have hop : e.rop ≠ .ios ∧ e.rop ≠ .rdm := by rcases hu with h | h <;> rw [h] <;> decide
  obtain ⟨hhold, hoff, -⟩ := hs
  have hstart := loopStart_reg hop.1 hoff n
  have hen : ((loopStart e s).regs.reg n).en = false := by rw [hstart]; simp [hf, hd]
  rw [runMi_of_unheld (cycleFront_unheld hhold (.inl hop.1)), endCycle_regs, nextAddress_regs, Regs.release_reg,
    decimalCommit_regs_of_unit (terminate_lastPass_unitf hu), terminate_reg (.inl hnq), BitReg.release_nat, lastPass_regs, loopEnd,
    pulses_off hen, hstart, BitReg.wire_nat]
  exact congrArg BitReg.nat (startReg_of_not_rdm hop.2 s n)

end

/-- The digit sum of 0 and 1 with either carry-in has no decimal carry (R232, R234). -/
theorem digitResult_add_zero_one (cin : Bool) : (digitResult refAlu refBcd .add AOp.add.code 0 1 cin).2 = false := by
  simp only [digitResult, digitPasses_succ_ref, tableAt_refBcd]
  cases cin <;> rfl

/-- Settles O43: the unit-source flag keeps the digit out of the accumulator, and the sum 0 + 1 + `DC` is below ten. -/
theorem unitSourceKeepsTheAccumulator : Obligations.UnitSourceKeepsTheAccumulator := by
  unfold Obligations.UnitSourceKeepsTheAccumulator
  intro s e hs href hbcd hwf hsop hu hx ha hsc hrun
  have ⟨hhold, hoff, hbus, _⟩ := hs
  obtain ⟨hplain, hzero, hwtm⟩ : e.rop ≠ .ios ∧ e.rop ≠ .zero ∧ e.rop ≠ .wtm := by rcases hu with h | h <;> rw [h] <;> decide
  have hunheld : (cycleFront e s).hold = none := cycleFront_unheld hhold (.inl hplain)
  have hcount : loopCount e s = 4 := by
    rw [loopCount, skip_of_rop hwf hzero hwtm, loopStart_trip hplain hoff hrun, hsc]; rfl
  have kept : ∀ n, n = .A ∨ n = .B → ((runMi e s).regs.reg n).nat = (s.regs.reg n).nat := by
    rintro n (rfl | rfl)
    all_goals
      exact runMi_nat_of_unit hs hu (by decide) (by simp [Feeds, xTarget_eq_some, hx])
        (by rcases hu with h | h <;> simp [Drives, sSource_eq_some, rSource_eq_some, hsop, h])
  have hentry := bcdEntry_of_four_pulses hplain hx href.1 (Entry.alu_of_wf hwf) hcount (a := 0) (b := 1)
    (fun j _ => by rw [loopAt_sbit hplain hbus, hsop]; simp [sSource, driverBit])
    (fun j _ => by rw [loopAt_rbit hplain hbus, rDriver, if_pos hu]; cases j <;> simp [driverBit])
  refine ⟨runMi e s, rfl, kept .A (.inl rfl), kept .B (.inr rfl), ?_, ?_⟩
  · have hdc : (runMi e s).dc = ((terminate e (lastPass e s)).bcdEntry e.aop).getLsbD 4 := by
      rw [runMi_of_unheld hunheld, endCycle_dc, nextAddress_dc, decimalCommit_dc (terminate_lastPass_dm.trans (decide_eq_true hx))]
    rw [hbcd, ha] at hentry
    rw [hdc, ha]
    exact (congrArg Prod.snd hentry).trans (digitResult_add_zero_one s.dc)
  · rw [runMi_bc_of_unheld hunheld, if_pos hx, cycleFront_bc hplain]

end Sys2Proof.Machine
end

section
/-! SUPPORT. Proofs of the family of spec/42_engine_cycle.md, the branch test (R205, R210, R211, R345): what the selected condition reads
after the last evaluation, beside what it reads at the end of the cycle. -/

namespace Sys2Proof.Machine

/-! ### From the terminating pass to the end of the cycle (R207 to R209) -/

/-- The decimal digit writes the top four bits alone (R209, D18). -/
theorem getLsbD_setTopDigit {w : Nat} (nib : BitVec 4) (v : BitVec w) {i : Nat} (hi : i < w - 4) :
    (setTopDigit nib v).getLsbD i = v.getLsbD i := by
  unfold setTopDigit
  rw [BitVec.getLsbD_setWidth, BitVec.getLsbD_append, if_pos hi, BitVec.getLsbD_extractLsb']
  simp [hi, show i < w by omega]

/-- So step 10 leaves the low bit of an accumulator of more than four bits. -/
theorem decimalCommit_acc_bit {s : State} (h : 4 < s.acc.width) (op : AOp) : (decimalCommit op s).acc.bit 0 = s.acc.bit 0 := by
  have hdigit : (commitDigit op s).acc.bit 0 = s.acc.bit 0 := by
    unfold commitDigit
    split
    · rfl
    · rw [State.setAcc_acc]
      exact getLsbD_setTopDigit _ _ (show 0 < s.acc.width - 4 by omega)
  unfold decimalCommit
  split
  · exact hdigit
  · rfl

section
variable {e : Entry} {s : State}

/-- The low bit of the accumulator at the end of a cycle is the one the terminating pass found, in decimal mode too. -/
theorem runMi_acc_bit (hu : (cycleFront e s).hold = none) (hw : s.DefaultWidths) :
    (runMi e s).acc.bit 0 = (lastPass e s).acc.bit 0 := by
  have hterm : (terminate e (lastPass e s)).acc = (lastPass e s).acc := by
    obtain ⟨-, -, haq⟩ := accOf_plain (lastPass e s).ab
    rw [State.acc_reg, State.acc_reg, terminate_ab, terminate_reg (.inl haq)]
  obtain ⟨hwidth, -⟩ := State.DefaultWidths.words (s := lastPass e s) (lastPass_widths.trans hw)
  have hend : ∀ u : State, (endCycle (nextAddress e u)).acc.bit 0 = u.acc.bit 0 := fun u => by
    rw [State.acc_reg, State.acc_reg, endCycle_regs, nextAddress_regs, Regs.release_reg, BitReg.release_bit]; rfl
  rw [runMi_of_unheld hu, hend, decimalCommit_acc_bit (by rw [hterm, hwidth]; decide), hterm]

/-- The bits of `Q` at the end of a cycle, but `Q[6]` under X_QB (R207). -/
theorem runMi_q_bit_kept (hu : (cycleFront e s).hold = none) (hf : s.DefaultFields) {i : Nat} (h : i ≠ 6 ∨ e.xop ≠ .qb) :
    (runMi e s).regs.q.bit i = (loopEnd e s).regs.q.bit i := by
  have hqb : s.cfg.qLayout.qb = 6 := by rw [hf]; rfl
  rw [runMi_q_bit hu, hqb, if_neg fun ⟨hx, hi, _⟩ => h.elim (· hi) (· hx)]

/-! ### The sixteen default conditions in two states (R204) -/

theorem qualifier_number (n : BitVec 4) : n = 0 ∨ n = 1 ∨ n = 2 ∨ n = 3 ∨ n = 4 ∨ n = 5 ∨ n = 6 ∨ n = 7 ∨ n = 8 ∨ n = 9 ∨ n = 10 ∨
    n = 11 ∨ n = 12 ∨ n = 13 ∨ n = 14 ∨ n = 15 := by
  revert n; decide

/-- Two states that differ in `BC`, `DC` and `Q[6]` at most, as far as the default conditions read, test every other condition alike. -/
theorem State.qual_congr_of_default {v t : State} (hv : v.DefaultTests) (ht : t.DefaultTests) {n : BitVec 4} (h9 : n ≠ 9) (h10 : n ≠ 10)
    (h7 : n = 7 → t.condition .qb = v.condition .qb) (hq : ∀ i, i ≠ 6 → t.regs.q.bit i = v.regs.q.bit i)
    (hp : t.regs.p.bit 0 = v.regs.p.bit 0) (hacc : t.acc.bit 0 = v.acc.bit 0) (hab : t.ab = v.ab) (harb : t.arb = v.arb) :
    t.qual n = v.qual n := by
  rw [State.qual_of_default hv, State.qual_of_default ht]
  rcases qualifier_number n with rfl | rfl | rfl | rfl | rfl | rfl | rfl | rfl | rfl | rfl | rfl | rfl | rfl | rfl | rfl | rfl
  · exact hq 15 (by decide)
  · exact hq 14 (by decide)
  · exact hq 13 (by decide)
  · exact hq 12 (by decide)
  · exact hq 11 (by decide)
  · exact hq 10 (by decide)
  · exact hq 9 (by decide)
  · exact h7 rfl
  · exact hq 0 (by decide)
  · exact absurd rfl h9
  · exact absurd rfl h10
  · exact show t.serviceRequested = v.serviceRequested by rw [State.serviceRequested, harb]; rfl
  · exact hab
  · exact hp
  · exact congrArg Arbiter.rdy harb
  · exact hacc

/-! ### `Q[6]` under X_QB (R207, R345) -/

/-- `Q[6]` after `Q`'s own rotation, where `Q` drives the source bus and the loop runs (R127, R153). -/
theorem loopEnd_q_bit_of_rotation (h : PlainRun e s) (hr : e.rop = .q) (hx : e.xop = .qb) :
    (loopEnd e s).regs.q.bit 6 = s.regs.q.bit ((e.sc.toNat + 7) % 16) := by
  have hsc : e.sc.toNat < 16 := e.sc.isLt
  have hw : defaultWidths.of .Q = 16 := rfl
  have hdr : Drives e s.ab .Q := by simp [Drives, hr, rSource]
  have hf : ¬ Feeds e s.ab .Q := by simp [Feeds, xTarget_eq_some, hx, ne_accOf]
  have hown : ownSource e .Q = .reg .Q := if_neg fun hc => absurd hc.2 (by decide)
  have hstart : startReg e s .Q = s.regs.q := startReg_of_not_rdm (by rw [hr]; decide) s .Q
  have hbit := h.loopAt_bit (n := .Q) (by decide) (.inr hdr) (i := 6) (by decide) (e.sc.toNat + 1)
  rw [hw, hstart] at hbit
  rw [h.loopEnd_eq]
  refine Eq.trans hbit ?_
  split
  · next hlow => rw [show 6 + (e.sc.toNat + 1) = (e.sc.toNat + 7) % 16 by omega]
  · next hround =>
    rw [h.inputBit_own hf hown, h.outBit (by decide) (.inr hdr) (by rw [hw]; omega), hstart,
      show 6 + (e.sc.toNat + 1) - 16 = (e.sc.toNat + 7) % 16 by omega]

/-- `Q[6]` as the terminating pass finds it under X_QB, where it is the selected condition (R200, R204, R207). -/
theorem loopEnd_q_bit_of_special (hs : s.AtRest) (hq : s.Quiet) (hdef : s.DefaultTests) (hfields : s.DefaultFields) (hw : s.DefaultWidths)
    (hwf : e.wf = true) (hsel : s.csa.extractLsb' 4 4 = 7) (hx : e.xop = .qb) :
    (loopEnd e s).regs.q.bit 6 = if e.rop = .q ∧ (e.iqn = false ∨ s.regs.q.bit 6 = true)
      then s.regs.q.bit ((e.sc.toNat + 7) % 16) else s.regs.q.bit 6 := by
  have ⟨_, hoff, _⟩ := hs
  by_cases hr : e.rop = .q
  · have hop : e.rop ≠ .ios := by rw [hr]; decide
    have hseven : s.atStepSeven e = s := State.atStepSeven_eq (by rw [hr]; decide) (by rw [hx]; decide)
    have hqb : s.cfg.qLayout.qb = 6 := by rw [hfields]; rfl
    have htest : s.qual s.qsel = s.regs.q.bit 6 := by
      rw [State.qsel_of_default hdef, hsel, State.qual_of_default hdef, ← hqb]; rfl
    by_cases hruns : e.iqn = false ∨ s.regs.q.bit 6 = true
    · have hrun : s.loopRuns e := fun hi => ⟨hq, by rw [hseven, htest]; exact hruns.resolve_left (by simp [hi])⟩
      rw [if_pos ⟨hr, hruns⟩]
      exact loopEnd_q_bit_of_rotation
        ⟨hop, hs, hw, hrun, skip_of_rop hwf (by rw [hr]; decide) (by rw [hr]; decide)⟩ hr hx
    · rw [if_neg fun h => hruns h.2]
      simp only [not_or, Bool.not_eq_false, Bool.not_eq_true] at hruns
      obtain ⟨hi, hbit⟩ := hruns
      have h0 : loopCount e s = 0 := loopCount_of_inhibited hop hoff hq hi (by rw [hseven, htest, hbit])
      have hfront := (loopStart_bit (e := e) .Q 6).trans (cycleFront_bit hop hoff .Q 6)
      rw [hseven] at hfront
      rw [loopEnd_of_no_pulse h0]
      exact hfront
  · rw [if_neg fun h => hr h.1, loopEnd_q hoff hr (by rw [hx]; decide)]

/-! ### The branch (R205, R210, R211, R345) -/

/-- `BC` as the terminating pass finds it: as step 3 left it (R263, R266, R345). -/
theorem lastPass_bc_eq (hq : s.Quiet) : (lastPass e s).bc =
    if e.rop = .ios ∧ s.qIoe = true ∧ s.qIoop = 1 then !s.reportedFlag s.qSc
    else if e.rop = .ios ∧ s.qIoe = true ∧ s.qIoop = 4 then s.reportedFlag s.qSc else s.bc := by
  rw [lastPass_bc]
  by_cases hop : e.rop = .ios
  · simp only [cycleFront_bc_of_ios hop hq, hop, true_and]
  · simp only [cycleFront_bc hop, hop, false_and, if_false]

/-- Every condition but `BC`, `DC`, and `Q[6]` under X_QB, tests at the end of the cycle as the terminating pass found it. -/
theorem runMi_qual (hu : (cycleFront e s).hold = none) (hq : s.Quiet) (hdef : s.DefaultTests) (hfields : s.DefaultFields)
    (hw : s.DefaultWidths) {n : BitVec 4} (h9 : n ≠ 9) (h10 : n ≠ 10) (h7 : ¬ (n = 7 ∧ e.xop = .qb)) :
    (runMi e s).qual n = (lastPass e s).qual n := by
  obtain ⟨-, hcfg, -, -⟩ := runMi_sameConfiguration e s
  have hqb : (runMi e s).cfg.qLayout.qb = 6 ∧ (lastPass e s).cfg.qLayout.qb = 6 := by
    rw [hcfg, lastPass_cfg, hfields]; exact ⟨rfl, rfl⟩
  refine State.qual_congr_of_default (by simpa [State.DefaultTests] using hdef) (by rw [State.DefaultTests, hcfg]; exact hdef) h9 h10
    (fun hn => ?_) (fun i hi => runMi_q_bit_kept hu hfields (.inl hi)) ?_ (runMi_acc_bit hu hw) (runMi_ab_of_unheld hu)
    (runMi_arb_of_quiet hu hq)
  · rw [State.condition, State.condition, hqb.1, hqb.2]
    exact runMi_q_bit_kept hu hfields (.inr fun hx => h7 ⟨hn, hx⟩)
  · have hreg := runMi_reg_of_unheld (n := .P) hu (.inl (by decide)) (.inr (ne_accOf (by decide) (by decide)))
    exact (congrArg (BitReg.bit · 0) hreg).trans (BitReg.release_bit .P _ 0)

end

/-- Settles O29: the flag is the selected condition after the last evaluation; the commits change `BC`, `DC`, `Q[6]` and no other condition. -/
theorem branchTestSeesRegistersAfterThePulses : Obligations.BranchTestSeesRegistersAfterThePulses := by
  unfold Obligations.BranchTestSeesRegistersAfterThePulses
  rintro s e f c hs hq hdef hfields hw hwf hb hstart rfl rfl
  have hu : (cycleFront e s).hold = none := cycleFront_unheld hs.1 (hstart.imp id fun h => ⟨hq, h⟩)
  have hlast : (lastPass e s).DefaultTests := by simpa [State.DefaultTests] using hdef
  have hsel : (lastPass e s).qsel = s.csa.extractLsb' 4 4 := by rw [State.qsel_of_default hlast, lastPass_csa]
  refine ⟨runMi e s, rfl, ?_⟩
  rw [runMi_csa_of_brq hu hb hq, hsel, nextMask]
  congr 3
  by_cases h9 : s.csa.extractLsb' 4 4 = 9
  · rw [if_pos h9, h9, State.qual_of_default hlast]
    exact congrArg (· = true) (lastPass_bc_eq hq)
  by_cases h10 : s.csa.extractLsb' 4 4 = 10
  · rw [if_neg h9, if_pos h10, h10, State.qual_of_default hlast]
    exact congrArg (· = true) lastPass_dc
  by_cases h7 : s.csa.extractLsb' 4 4 = 7 ∧ e.xop = .qb
  · obtain ⟨h7, hx⟩ := h7
    have hqb : (lastPass e s).cfg.qLayout.qb = 6 := by rw [lastPass_cfg, hfields]; rfl
    have htest : (lastPass e s).qual 7 = (loopEnd e s).regs.q.bit 6 := by rw [State.qual_of_default hlast, ← hqb]; rfl
    rw [if_neg h9, if_neg h10, if_pos ⟨h7, hx⟩, h7, htest, loopEnd_q_bit_of_special hs hq hdef hfields hw hwf h7 hx]
  · rw [if_neg h9, if_neg h10, if_neg h7, runMi_qual hu hq hdef hfields hw h9 h10 h7]

end Sys2Proof.Machine
end

section
/-! SUPPORT. Proofs of the family of spec/43_alu_bcd.md: one evaluation of each A-op (R222, R240 to R247), the serial sum and the other A-ops
over any number of pulses (R229, R237), and the decimal law of the reference tables, alone and through the engine (R232 to R235). -/

namespace Sys2Proof.Machine

/-! ### One evaluation (R222, R229, R240 to R247) -/

/-- The row of an A-op is one evaluation under the reference table. -/
theorem exec_aRow_ref {s : State} (h : s.cfg.aluTable = refAlu) (op : AOp) :
    exec (aRow op) s = .next { s with
      buses := { s.buses with tbus := refResult op s.rbit s.sbit s.cyc.cw }
      cyc := { s.cyc with ct := refCarry op s.rbit s.sbit s.cyc.cw, ctv := refUpdates op, evn := s.cyc.evn + 1 } } := by
  rw [← aluPass_ref h]
  cases op <;> rfl

/-- Settles O20: the result bit, the tentative carry and its mark are those of the A-op's rule. -/
theorem aOpsEvaluateTheReferenceTable : Obligations.AOpsEvaluateTheReferenceTable := by
  unfold Obligations.AOpsEvaluateTheReferenceTable
  rintro s r d c htbl rfl rfl rfl
  have hrow := exec_aRow_ref htbl
  refine ⟨fun i ct hi => ?_, hrow .add, hrow .sub, hrow .iorc, hrow .iors⟩
  simp only [List.mem_cons, Prod.mk.injEq, List.not_mem_nil, or_false] at hi
  rcases hi with ⟨rfl, rfl⟩ | ⟨rfl, rfl⟩ | ⟨rfl, rfl⟩ | ⟨rfl, rfl⟩
  · exact ⟨_, hrow .zero, rfl, rfl, rfl⟩
  · exact ⟨_, hrow .and, rfl, rfl, rfl⟩
  · exact ⟨_, hrow .ior, rfl, rfl, rfl⟩
  · exact ⟨_, hrow .xor, rfl, rfl, rfl⟩

/-! ### The serial adder (R244, R245) -/

/-- What A_ADD and A_SUB add to the destination value: the source value, or its complement (R244, R245). -/
def addend {w : Nat} (op : AOp) (x : BitVec w) : BitVec w :=
  if op = .sub then ~~~x else x

/-- What the serial adder has put out when all bits have gone through. -/
def addedWord {w : Nat} (op : AOp) (x y : BitVec w) (c : Bool) : BitVec w :=
  addend op x + y + (BitVec.ofBool c).setWidth w

section
variable {op : AOp} (hop : op = .add ∨ op = .sub)
include hop

theorem refUpdates_of_sum : refUpdates op = true := by
  rcases hop with rfl | rfl <;> rfl

/-- The tentative carry of an evaluation on the carry into a position is the carry into the next one. -/
theorem refCarry_addend {w j : Nat} (hj : j < w) (x y : BitVec w) (c : Bool) :
    refCarry op (x.getLsbD j) (y.getLsbD j) (BitVec.carry j (addend op x) y c) = BitVec.carry (j + 1) (addend op x) y c := by
  rw [BitVec.carry_succ]
  rcases hop with rfl | rfl
  · rfl
  · simp [addend, refCarry, Bool.atLeastTwo, hj]

/-- The result bit of an evaluation on the carry into a position is the bit of the sum there. -/
theorem refResult_addend {w j : Nat} (hj : j < w) (x y : BitVec w) (c : Bool) :
    refResult op (x.getLsbD j) (y.getLsbD j) (BitVec.carry j (addend op x) y c) = (addedWord op x y c).getLsbD j := by
  rw [addedWord, BitVec.getLsbD_add_add_bool hj]
  rcases hop with rfl | rfl
  · simp [addend, refResult]
  · simp [addend, refResult, hj]

end

section
variable {e : Entry} {u : State} (htbl : u.cfg.aluTable = refAlu) (halu : e.alu = e.aop.code) (hop : e.aop = .add ∨ e.aop = .sub)
  {w : Nat} {x y : BitVec w} (hr : ∀ j, j < w → (pulses e j u).rbit = x.getLsbD j) (hs : ∀ j, j < w → (pulses e j u).sbit = y.getLsbD j)
include htbl halu hop hr hs

/-- The working carry runs through the carries of the sum of the words on the two buses (R206, R221). -/
theorem pulses_cw_sum {k : Nat} (hk : k ≤ w) : (pulses e k u).cyc.cw = BitVec.carry k (addend e.aop x) y u.cyc.cw := by
  induction k with
  | zero => rw [pulses_zero, BitVec.carry_zero]
  | succ k ih => rw [pulses_cw_ref htbl halu, if_pos (refUpdates_of_sum hop), hr k hk, hs k hk, ih (by omega), refCarry_addend hop hk]

/-- So the computation bus carries the bits of the sum, one after the other (R202). -/
theorem busBit_sum {j : Nat} (hj : j < w) : busBit e (pulses e j u) = (addedWord e.aop x y u.cyc.cw).getLsbD j := by
  rw [busBit_ref htbl halu, pulses_cw_sum htbl halu hop hr hs (Nat.le_of_lt hj), hr j hj, hs j hj, refResult_addend hop hj]

end

/-- The sum as a number, carry out and all. -/
def addedNat {w : Nat} (op : AOp) (x y : BitVec w) (c : Bool) : Nat :=
  (addend op x).toNat + y.toNat + c.toNat

theorem addend_toNat {w : Nat} (op : AOp) (x : BitVec w) :
    (addend op x).toNat = if op = .sub then 2 ^ w - 1 - x.toNat else x.toNat := by
  unfold addend
  split
  · exact BitVec.toNat_not
  · rfl

theorem addedWord_toNat {w : Nat} (op : AOp) (x y : BitVec w) (c : Bool) :
    (addedWord op x y c).toNat = addedNat op x y c % 2 ^ w := by
  simp [addedWord, addedNat]

/-- The carry out of the top position. -/
theorem carry_addend {w : Nat} (op : AOp) (x y : BitVec w) (c : Bool) :
    BitVec.carry w (addend op x) y c = decide (2 ^ w ≤ addedNat op x y c) := by
  rw [BitVec.carry, Nat.mod_eq_of_lt (addend op x).isLt, Nat.mod_eq_of_lt y.isLt]
  rfl

/-- The exact sum of `k` pulses is that of the low `k` bits (R244, R245). -/
theorem serialSum_eq_addedNat (op : AOp) (k a q : Nat) (c : Bool) :
    serialSum op k a q c.toNat = addedNat op (BitVec.ofNat k q) (BitVec.ofNat k a) c := by
  rw [serialSum, addedNat, addend_toNat, BitVec.toNat_ofNat, BitVec.toNat_ofNat]
  split
  · rw [Nat.add_comm (2 ^ k - 1 - _)]
  · rw [Nat.add_comm (q % 2 ^ k)]

/-! ### The decimal law of the reference tables (R232 to R235) -/

/-- Four bits that enter a nibble at its top, the lowest first. -/
theorem nibble_of_entered_bits (v n : BitVec 4) :
    BitVec.ofBool (v.getLsbD 3) ++ (BitVec.ofBool (v.getLsbD 2) ++ (BitVec.ofBool (v.getLsbD 1) ++
      (BitVec.ofBool (v.getLsbD 0) ++ n.extractLsb' 1 3).extractLsb' 1 3).extractLsb' 1 3).extractLsb' 1 3 = v := by
  revert v n; decide

/-- The four passes of the self-check form the binary sum of the digits, the carry in the carry and the rest in the nibble (R244, R245). -/
theorem digitPasses_four {op : AOp} (hop : op = .add ∨ op = .sub) (a b : BitVec 4) (cin : Bool) :
    digitPasses refAlu op.code a b 4 (cin, 0) = (BitVec.carry 4 (addend op b) a cin, addedWord op b a cin) := by
  have pass : ∀ n, n < 4 → ∀ nib, digitPasses refAlu op.code a b (n + 1) (BitVec.carry (3 - n) (addend op b) a cin, nib) =
      digitPasses refAlu op.code a b n (BitVec.carry (3 - n + 1) (addend op b) a cin,
        BitVec.ofBool ((addedWord op b a cin).getLsbD (3 - n)) ++ nib.extractLsb' 1 3) := fun n hn nib => by
    have hj : 3 - n < 4 := by omega
    rw [digitPasses_succ_ref, if_pos (refUpdates_of_sum hop), refCarry_addend hop hj, refResult_addend hop hj]
  have hstart : cin = BitVec.carry 0 (addend op b) a cin := BitVec.carry_zero.symm
  conv_lhs => rw [hstart]
  rw [pass 3 (by decide), pass 2 (by decide), pass 1 (by decide), pass 0 (by decide), digitPasses]
  exact congrArg (Prod.mk _) (nibble_of_entered_bits _ 0)

/-- An entry of REF_BCD by the fields of its index (R232). -/
theorem refBcdAt_fields (dir cb : Bool) (nib : BitVec 4) :
    (refBcdAt (0#2 ++ BitVec.ofBool dir ++ BitVec.ofBool cb ++ nib)).extractLsb' 0 4 = BitVec.ofNat 4 (refDigit dir cb nib.toNat).2 ∧
      (refBcdAt (0#2 ++ BitVec.ofBool dir ++ BitVec.ofBool cb ++ nib)).getLsbD 4 = (refDigit dir cb nib.toNat).1 := by
  revert dir cb nib; decide

/-- The correction of the binary sum of two decimal digits gives the law's digit and carry (R232, R234). -/
theorem refDigit_addedNat {op : AOp} (hop : op = .add ∨ op = .sub) {a b : Nat} (ha : a ≤ 9) (hb : b ≤ 9) (cin : Bool) {t : Nat}
    (ht : t = addedNat op (BitVec.ofNat 4 b) (BitVec.ofNat 4 a) cin) :
    refDigit (op == .sub) (decide (2 ^ 4 ≤ t)) (t % 2 ^ 4) =
      (decide (10 ≤ decimalSum op a b cin), decimalSum op a b cin % 10) := by
  have hcin := cin.toNat_le
  have hcarry : 16 * (decide (2 ^ 4 ≤ t)).toNat + t % 2 ^ 4 = t := by
    have hle : t ≤ 31 := by
      have := (addend op (BitVec.ofNat 4 b)).isLt
      have := (BitVec.ofNat 4 a).isLt
      rw [ht, addedNat]; omega
    by_cases h : 2 ^ 4 ≤ t <;> simp only [h, decide_true, decide_false, Bool.toNat_true, Bool.toNat_false] <;> omega
  have hcorrected : (if op == .sub then (t + 26) % 32 else t) = decimalSum op a b cin := by
    rw [ht, addedNat, addend_toNat, BitVec.toNat_ofNat, BitVec.toNat_ofNat, decimalSum]
    rcases hop with rfl | rfl <;> simp <;> omega
  have hsum : decimalSum op a b cin < 20 := by
    unfold decimalSum
    split <;> omega
  rw [refDigit, hcarry]
  simp only [hcorrected]
  by_cases h : decimalSum op a b cin < 10
  · rw [if_pos h, Nat.mod_eq_of_lt h, decide_eq_false (by omega)]
  · rw [if_neg h, if_pos hsum, decide_eq_true (by omega), Nat.mod_eq_sub_mod (by omega), Nat.mod_eq_of_lt (by omega)]

/-- R234: the two reference tables give the law's digit and decimal carry, for every pair of digits and either carry-in. -/
theorem digitResult_ref {op : AOp} (hop : op = .add ∨ op = .sub) {a b : Nat} (ha : a ≤ 9) (hb : b ≤ 9) (cin : Bool) :
    digitResult refAlu refBcd op op.code (BitVec.ofNat 4 a) (BitVec.ofNat 4 b) cin =
      (BitVec.ofNat 4 (decimalSum op a b cin % 10), decide (10 ≤ decimalSum op a b cin)) := by
  simp only [digitResult, digitPasses_four hop, tableAt_refBcd, refBcdAt_fields, carry_addend, addedWord_toNat]
  rw [refDigit_addedNat hop ha hb cin rfl]

/-- So every case of the self-check holds (R235). -/
theorem decimalCasesHold_ref {op : AOp} (hop : op = .add ∨ op = .sub) : decimalCasesHold refAlu refBcd op op.code = true := by
  have holds : ∀ a, a < 10 → ∀ b, b < 10 → ∀ cin, decimalCaseHolds refAlu refBcd op op.code a b cin = true := fun a ha b hb cin =>
    beq_iff_eq.2 (digitResult_ref hop (Nat.le_of_lt_succ ha) (Nat.le_of_lt_succ hb) cin)
  simp only [decimalCasesHold, List.all_eq_true, List.mem_range]
  intro a ha b hb
  rw [holds a ha b hb, holds a ha b hb]
  rfl

/-! ### The checks of a supplied pair (R227, R346) -/

theorem mem_opcodesOf_iff (t : OpTable) (op : AOp) (c : BitVec 3) : c ∈ opcodesOf t op ↔ t.aop c = op := by
  simp only [opcodesOf, List.mem_filter, List.mem_map, List.mem_range, beq_iff_eq, and_iff_right_iff_imp]
  exact fun _ => ⟨c.toNat, c.isLt, by simp⟩

/-- The default `OPTABLE` has one code for each A-op (R97). -/
theorem aop_default_eq_iff (op : AOp) (c : BitVec 3) : defaultOps.aop c = op ↔ c = op.code := by
  revert c; cases op <;> decide

/-- REF_ALU's addition is that of R244, index by index. -/
theorem addsAt_refAlu : addsAt refAlu AOp.add.code = true :=
  (all_range_ofNat_iff rfl fun v : BitVec 5 =>
    (tableAt refAlu (AOp.add.code ++ v)).extractLsb' 0 3 == (refAluAt (AOp.add.code ++ v)).extractLsb' 0 3).2 fun v => by
      rw [tableAt_refAlu, beq_self_eq_true]

/-- The three bits of an index between its opcode and the two bus bits (R223). -/
theorem append_unclaimed_eq_aluIndex (op v : BitVec 3) :
    op ++ v ++ 0#2 = aluIndex op (v.getLsbD 2) (v.getLsbD 1) (v.getLsbD 0) false false := by
  revert op v; decide

/-- An opcode whose entries for unclaimed buses do not show passes the check (R346). -/
theorem skipFits_of_unseen {alu : Vector (BitVec 8) 256} {code : BitVec 3} (h : Unseen alu code) : skipFits alu code = true := by
  refine (all_range_ofNat_iff rfl fun v : BitVec 3 =>
    !(tableAt alu (code ++ v ++ 0#2)).getLsbD 2 &&
      (tableAt alu (code ++ v ++ 0#2)).getLsbD 0 == (tableAt alu (code ++ 0#5)).getLsbD 0).2 fun v => ?_
  obtain ⟨hupd, hbit⟩ := h (v.getLsbD 2) (v.getLsbD 1) (v.getLsbD 0)
  rw [← append_unclaimed_eq_aluIndex] at hupd hbit
  rw [hupd, hbit, aluIndex_eq_append code false]
  exact beq_self_eq_true _

/-- No logical operation of the reference table shows the skip (R171, R346). -/
theorem skipCheck_refAlu : skipCheck defaultOps refAlu = true := by
  refine (all_range_ofNat_iff rfl fun c : BitVec 3 => !(defaultOps.aop c).skipOK || skipFits refAlu c).2 fun c => ?_
  cases hok : (defaultOps.aop c).skipOK
  · rfl
  · rw [(aop_default_eq_iff _ c).1 rfl, skipFits_of_unseen (unseen_refAlu hok), Bool.or_true]

/-- Settles O44: addition and skip by the entries of each opcode, the 400 cases by the law. -/
theorem referenceTablesPassTheDecimalCheck : Obligations.ReferenceTablesPassTheDecimalCheck := by
  unfold Obligations.ReferenceTablesPassTheDecimalCheck
  refine ⟨List.any_eq_true.2 ⟨_, (mem_opcodesOf_iff _ .add _).2 rfl, addsAt_refAlu⟩, skipCheck_refAlu, ?_⟩
  rw [decimalCheck, Bool.and_eq_true, List.all_eq_true, List.all_eq_true]
  refine ⟨fun c hc => ?_, fun c hc => ?_⟩
  · rw [(aop_default_eq_iff .add c).1 ((mem_opcodesOf_iff _ _ c).1 hc)]; exact decimalCasesHold_ref (.inl rfl)
  · rw [(aop_default_eq_iff .sub c).1 ((mem_opcodesOf_iff _ _ c).1 hc)]; exact decimalCasesHold_ref (.inr rfl)

end Sys2Proof.Machine
end

section
/-! SUPPORT. Proofs of the family of spec/43_alu_bcd.md, words with the accumulator on the destination bus and `Q` on the source bus: sums and
logic over any number of pulses (R229, R237, R240 to R247), and a decimal digit (R209, R234). -/

namespace Sys2Proof.Machine

/-! ### What a register holds after any number of result bits (R127, R237) -/

/-- A register that result bits entered at the top, bit by bit. -/
theorem testBit_shiftedIn {k old : Nat} (hk : k ≤ 16) (hold : old < 2 ^ 16) (result i : Nat) :
    (shiftedIn k result old).testBit i =
      if i + k < 16 then old.testBit (i + k) else decide (i < 16) && result.testBit (i + k - 16) := by
  have hlow : old / 2 ^ k < 2 ^ (16 - k) := by
    rw [Nat.div_lt_iff_lt_mul (Nat.two_pow_pos k), ← Nat.pow_add, Nat.sub_add_cancel hk]
    exact hold
  rw [shiftedIn, Nat.mul_comm, Nat.testBit_two_pow_mul_add _ hlow, Nat.testBit_div_two_pow, Nat.testBit_mod_two_pow]
  by_cases hi : i + k < 16
  · rw [if_pos hi, if_pos (by omega)]
  · rw [if_neg hi, if_neg (by omega), show i - (16 - k) = i + k - 16 by omega]
    congr 1
    exact decide_eq_decide.2 (by omega)

section
variable {e : Entry} {s : State}

/-- A register that is fed takes the bits of the computation bus at its top, above its own old high bits. -/
theorem PlainRun.fed_nat (h : PlainRun e s) {n : RegName} {v : Nat} (hw : defaultWidths.of n = 16) (hior : n ≠ .IOR)
    (hf : Feeds e s.ab n) (hq : n ≠ .Q ∨ e.xop ≠ .qb) (hd : e.xop ≠ .dec ∨ n ≠ accOf s.ab)
    (hv : ∀ j, j < e.sc.toNat + 1 → busBit e (loopAt e s j) = v.testBit j) :
    ((runMi e s).regs.reg n).nat = shiftedIn (e.sc.toNat + 1) v (startReg e s n).nat := by
  have hk : e.sc.toNat + 1 ≤ 16 := e.sc.isLt
  have hold := (startReg e s n).nat_lt
  rw [h.startReg_width, hw] at hold
  obtain ⟨-, -, -, hwidths⟩ := runMi_sameConfiguration e s
  have hwidth : ((runMi e s).regs.reg n).width = 16 := (State.DefaultWidths.reg (hwidths.trans h.widths) n).trans hw
  apply Nat.eq_of_testBit_eq
  intro i
  rw [testBit_shiftedIn hk hold, BitReg.testBit_nat, BitReg.testBit_nat]
  by_cases hi : i < 16
  · rw [h.runMi_bit hior (.inl hf) hq hd (by omega), hw]
    split
    · rfl
    · rw [h.inputBit_fed hf, hv _ (by omega), decide_eq_true hi, Bool.true_and]
  · rw [BitReg.bit_of_ge (by omega), if_neg (by omega), decide_eq_false hi, Bool.false_and]

/-! ### The accumulator and `Q` on the two buses (R146, R153) -/

section
variable (hrop : e.rop = .q)
include hrop

theorem PlainRun.rbit_q (h : PlainRun e s) {j : Nat} (hj : j < 16) : (loopAt e s j).rbit = s.regs.q.bit j := by
  rw [h.rbit_reg (n := .Q) (by rw [hrop]; rfl) hj, startReg_of_not_rdm (by rw [hrop]; decide)]; rfl

/-- `Q` comes round by the number of pulses (R127, R153). -/
theorem PlainRun.q_rotated (h : PlainRun e s) (hx : e.xop = .acc ∨ e.xop = .dec) :
    (runMi e s).regs.q.word = s.regs.q.word.rotateRight (e.sc.toNat + 1) := by
  have hxq : e.xop ≠ .q ∧ e.xop ≠ .qb := by rcases hx with hx | hx <;> rw [hx] <;> decide
  have hword := h.own_word (n := .Q) rfl (by decide) (by simp [Feeds, xTarget_eq_some, hxq.1, ne_accOf]) (by simp [Drives, hrop, rSource])
    (.inr hxq.2) (.inr (ne_accOf (by decide) (by decide)))
  rwa [startReg_of_not_rdm (by rw [hrop]; decide)] at hword

/-- S_ACC R_Q X_ACC: the bits of the computation bus enter the accumulator, and `T` and `M` where their flags are set; `Q` rotates (R237). -/
theorem PlainRun.acc_q_acc (h : PlainRun e s) (hx : e.xop = .acc) {v : Nat}
    (hv : ∀ j, j < e.sc.toNat + 1 → busBit e (loopAt e s j) = v.testBit j) :
    (runMi e s).acc.nat = shiftedIn (e.sc.toNat + 1) v s.acc.nat ∧
      (runMi e s).regs.q.word = s.regs.q.word.rotateRight (e.sc.toNat + 1) ∧
      (e.ttt = true → (runMi e s).regs.t.nat = shiftedIn (e.sc.toNat + 1) v s.regs.t.nat) ∧
      (e.ttm = true → (runMi e s).regs.m.nat = shiftedIn (e.sc.toNat + 1) v s.regs.m.nat) := by
  obtain ⟨haw, haior, haq⟩ := accOf_plain s.ab
  have fed : ∀ n, defaultWidths.of n = 16 → n ≠ .IOR → n ≠ .Q → Feeds e s.ab n →
      ((runMi e s).regs.reg n).nat = shiftedIn (e.sc.toNat + 1) v (s.regs.reg n).nat := fun n hw hior hq hf => by
    rw [h.fed_nat hw hior hf (.inl hq) (.inl (by rw [hx]; decide)) hv, startReg_of_not_rdm (by rw [hrop]; decide)]
  refine ⟨?_, h.q_rotated hrop (.inl hx), fun ht => ?_, fun hm => ?_⟩
  · rw [runMi_acc h.plain h.hold (by rw [hx]; decide), State.acc_reg]
    exact fed _ haw haior haq (by simp [Feeds, hx, xTarget])
  · exact fed .T rfl (by decide) (by decide) (by simp [Feeds, ht])
  · exact fed .M rfl (by decide) (by decide) (by simp [Feeds, hm])

variable (hsop : e.sop = .acc)
include hsop

theorem plainRun_of_acc_q (hs : s.AtRest) (hw : s.DefaultWidths) (hwf : e.wf = true) (hrun : s.loopRuns e) : PlainRun e s :=
  ⟨by rw [hrop]; decide, hs, hw, hrun, skip_of_sop hwf (by rw [hsop]; decide)⟩

theorem PlainRun.sbit_acc (h : PlainRun e s) {j : Nat} (hj : j < 16) : (loopAt e s j).sbit = s.acc.bit j := by
  obtain ⟨haw, -, -⟩ := accOf_plain s.ab
  rw [h.sbit_reg (n := accOf s.ab) (by rw [hsop]; rfl) (by omega), startReg_of_not_rdm (by rw [hrop]; decide), State.acc_reg]

end

end

/-- The low bits of a register's value are its low bits. -/
theorem BitReg.bit_eq_getLsbD_ofNat (r : BitReg) {k j : Nat} (hj : j < k) : r.bit j = (BitVec.ofNat k r.nat).getLsbD j := by
  rw [BitVec.getLsbD_ofNat, decide_eq_true hj, Bool.true_and, BitReg.testBit_nat]

/-! ### Sums (R237, R244, R245) -/

/-- Settles O31: the serial adder of `k` positions on the low bits of the accumulator and `Q`, its carry in `BC`. -/
theorem serialSumOfTheLowBits : Obligations.SerialSumOfTheLowBits := by
  unfold Obligations.SerialSumOfTheLowBits
  rintro s e _ _ hs href hw hwf hsop hrop hx hop hrun rfl rfl
  have h := plainRun_of_acc_q hrop hsop hs hw hwf hrun
  have hdec : e.xop ≠ .dec := by rw [hx]; decide
  have hk : e.sc.toNat + 1 ≤ 16 := e.sc.isLt
  have hr : ∀ j, j < e.sc.toNat + 1 → (loopAt e s j).rbit = (BitVec.ofNat (e.sc.toNat + 1) s.regs.q.nat).getLsbD j := fun j hj => by
    rw [h.rbit_q hrop (by omega), BitReg.bit_eq_getLsbD_ofNat _ hj]
  have hsb : ∀ j, j < e.sc.toNat + 1 → (loopAt e s j).sbit = (BitVec.ofNat (e.sc.toNat + 1) s.acc.nat).getLsbD j := fun j hj => by
    rw [h.sbit_acc hrop hsop (by omega), BitReg.bit_eq_getLsbD_ofNat _ hj]
  have htbl : (loopStart e s).cfg.aluTable = refAlu := by rw [loopStart_cfg, href.1]
  have hstart : (loopStart e s).cyc.cw = s.bc := by rw [loopStart_cyc h.plain, if_neg hdec]
  rw [serialSum_eq_addedNat]
  have hbus : ∀ j, j < e.sc.toNat + 1 → busBit e (loopAt e s j) =
      (addedNat e.aop (BitVec.ofNat (e.sc.toNat + 1) s.regs.q.nat) (BitVec.ofNat (e.sc.toNat + 1) s.acc.nat) s.bc).testBit j := by
    intro j hj
    have hbit := busBit_sum htbl (Entry.alu_of_wf hwf) hop hr hsb hj
    rw [hstart, BitVec.getLsbD, addedWord_toNat, Nat.testBit_mod_two_pow, decide_eq_true hj, Bool.true_and] at hbit
    exact hbit
  have hcarry : (loopAt e s (e.sc.toNat + 1)).cyc.cw = _ :=
    pulses_cw_sum htbl (Entry.alu_of_wf hwf) hop hr hsb (Nat.le_refl _)
  rw [hstart, carry_addend] at hcarry
  obtain ⟨hacc, hq, ht, hm⟩ := h.acc_q_acc hrop hx hbus
  exact ⟨runMi e s, rfl, hacc, by rw [runMi_bc_working h.plain h.hold href.2 hdec, h.loopEnd_eq, hcarry], hq, ht, hm⟩

/-! ### The A-ops that form no sum (R229, R240 to R243, R246, R247) -/

/-- Their result bit needs no carry: it is the bit of the word result. -/
theorem refResult_of_no_sum {op : AOp} (hadd : op ≠ .add) (hsub : op ≠ .sub) (q a : Word) (c : Bool) (j : Nat) :
    refResult op (q.getLsbD j) (a.getLsbD j) c = (bitwiseResult op q a).getLsbD j := by
  cases op <;> simp_all [refResult, bitwiseResult]

/-- What one evaluation of them leaves in the working carry: what stays there however many there are (R229). -/
theorem refCarry_of_no_sum {op : AOp} (hadd : op ≠ .add) (hsub : op ≠ .sub) (r d c : Bool) :
    (if refUpdates op then refCarry op r d c else c) = bitwiseCarry op c ∧ bitwiseCarry op (bitwiseCarry op c) = bitwiseCarry op c := by
  cases op <;> simp_all [refUpdates, refCarry, bitwiseCarry]

/-- The working carry after at least one evaluation of them (R206, R229). -/
theorem pulses_cw_of_no_sum {e : Entry} {u : State} (htbl : u.cfg.aluTable = refAlu) (halu : e.alu = e.aop.code) (hadd : e.aop ≠ .add)
    (hsub : e.aop ≠ .sub) (k : Nat) : (pulses e (k + 1) u).cyc.cw = bitwiseCarry e.aop u.cyc.cw := by
  induction k with
  | zero => rw [pulses_cw_ref htbl halu, (refCarry_of_no_sum hadd hsub _ _ _).1, pulses_zero]
  | succ k ih =>
    rw [pulses_cw_ref htbl halu, (refCarry_of_no_sum hadd hsub _ _ _).1, ih]
    exact (refCarry_of_no_sum hadd hsub false false _).2

/-- Settles O32: bit by bit the word result enters, and the carry is that of one evaluation. -/
theorem serialLogicOfTheLowBits : Obligations.SerialLogicOfTheLowBits := by
  unfold Obligations.SerialLogicOfTheLowBits
  rintro s e _ _ hs href hw hwf hsop hrop hx hadd hsub hrun rfl rfl
  have h := plainRun_of_acc_q hrop hsop hs hw hwf hrun
  have hdec : e.xop ≠ .dec := by rw [hx]; decide
  have hk : e.sc.toNat + 1 ≤ 16 := e.sc.isLt
  have htbl : (loopStart e s).cfg.aluTable = refAlu := by rw [loopStart_cfg, href.1]
  have hbus : ∀ j, j < e.sc.toNat + 1 → busBit e (loopAt e s j) = (bitwiseResult e.aop s.regs.q.word s.acc.word).toNat.testBit j := by
    intro j hj
    have hword : ∀ r : BitReg, r.bit j = r.word.getLsbD j := fun r => by
      rw [BitReg.getLsbD_word, decide_eq_true (by omega), Bool.true_and]
    have hbit := busBit_ref (e := e) htbl (Entry.alu_of_wf hwf) j
    rw [← loopAt, h.rbit_q hrop (by omega), h.sbit_acc hrop hsop (by omega), hword, hword, refResult_of_no_sum hadd hsub] at hbit
    exact hbit
  have hcarry : (runMi e s).bc = bitwiseCarry e.aop s.bc := by
    rw [runMi_bc_working h.plain h.hold href.2 hdec, h.loopEnd_eq, loopAt,
      pulses_cw_of_no_sum htbl (Entry.alu_of_wf hwf) hadd hsub, loopStart_cyc h.plain, if_neg hdec]
  obtain ⟨hacc, hq, ht, hm⟩ := h.acc_q_acc hrop hx hbus
  exact ⟨runMi e s, rfl, hacc, hcarry, hq, ht, hm⟩

/-! ### A decimal digit through the engine (R209, R234) -/

/-- Step 10 in decimal mode, without the unit-source flag, writes the corrected digit into the accumulator (R209). -/
theorem decimalCommit_acc {s : State} (hdm : s.cyc.dm = true) (hunit : s.cyc.unitf = false) (op : AOp) :
    (decimalCommit op s).acc = { s.acc with val := setTopDigit ((s.bcdEntry op).extractLsb' 0 4) s.acc.val } := by
  have hdigit : (commitDigit op s).acc = { s.acc with val := setTopDigit ((s.bcdEntry op).extractLsb' 0 4) s.acc.val } := by
    rw [commitDigit, hunit, if_neg (by decide), State.setAcc_acc]
  rw [decimalCommit, if_pos hdm]
  exact hdigit

/-- The digit stands above the other twelve bits of a 16-bit register (D18). -/
theorem setTopDigit_word {r : BitReg} (hw : r.width = 16) (d : BitVec 4) :
    BitReg.word { r with val := setTopDigit d r.val } = d ++ r.word.extractLsb' 0 12 := by
  obtain ⟨w, v, src, en, lat⟩ := r
  subst hw
  simp [BitReg.word, setTopDigit]

section
variable {e : Entry} {s : State}

/-- Without the unit constant on the source bus the unit-source flag stays clear (R150, R160). -/
theorem terminate_lastPass_unitf_clear (hop : e.rop ≠ .ios) (hu : e.rop ≠ .unit) (hux : e.rop ≠ .unitx) :
    (terminate e (lastPass e s)).cyc.unitf = false := by
  have hlast : (lastPass e s).cyc.unitf = (loopEnd e s).cyc.unitf := rfl
  rw [terminate_cyc, hlast, loopEnd, pulses_unitf, loopStart_cyc hop]
  exact decide_eq_false (not_or.2 ⟨hu, hux⟩)

/-- The accumulator after a cycle in decimal mode: the corrected digit above what the pulses left below (R209). -/
theorem PlainRun.acc_word_of_dec (h : PlainRun e s) (hx : e.xop = .dec) (hu : e.rop ≠ .unit) (hux : e.rop ≠ .unitx) :
    (runMi e s).acc.word = ((terminate e (lastPass e s)).bcdEntry e.aop).extractLsb' 0 4 ++
      ((loopEnd e s).regs.reg (accOf s.ab)).word.extractLsb' 0 12 := by
  obtain ⟨haw, -, haq⟩ := accOf_plain s.ab
  have hab : (terminate e (lastPass e s)).ab = s.ab := by rw [terminate_ab, lastPass_ab, if_neg (by rw [hx]; decide)]
  have hterm : (terminate e (lastPass e s)).acc = (loopEnd e s).regs.reg (accOf s.ab) := by
    rw [State.acc_reg, hab, terminate_reg (.inl haq), lastPass_regs]
  have hwidth : ((loopEnd e s).regs.reg (accOf s.ab)).width = 16 :=
    (State.DefaultWidths.reg (s := lastPass e s) (lastPass_widths.trans h.widths) _).trans haw
  have hend : (runMi e s).acc.word = (decimalCommit e.aop (terminate e (lastPass e s))).acc.word := by
    rw [runMi_of_unheld (cycleFront_unheld h.hold (.inl h.plain)), State.acc_reg, State.acc_reg, endCycle_regs, nextAddress_regs,
      Regs.release_reg, BitReg.release_word]
    rfl
  rw [hend, decimalCommit_acc (terminate_lastPass_dm.trans (decide_eq_true hx)) (terminate_lastPass_unitf_clear h.plain hu hux), hterm,
    setTopDigit_word hwidth]

/-- Four pulses move an accumulator that drives a bus and is not fed down by a digit (R127). -/
theorem PlainRun.acc_low_of_four (h : PlainRun e s) (hsop : e.sop = .acc) (hrdm : e.rop ≠ .rdm) (hsc : e.sc = 3) :
    ((loopEnd e s).regs.reg (accOf s.ab)).word.extractLsb' 0 12 = s.acc.word.extractLsb' 4 12 := by
  obtain ⟨haw, haior, -⟩ := accOf_plain s.ab
  have hdr : Drives e s.ab (accOf s.ab) := .inl (by rw [hsop]; rfl)
  apply BitVec.eq_of_getLsbD_eq
  intro i hi
  have hbit := h.loopAt_bit haior (.inr hdr) (i := i) (by omega) 4
  rw [if_pos (by omega), startReg_of_not_rdm hrdm, ← State.acc_reg] at hbit
  rw [BitVec.getLsbD_extractLsb', BitVec.getLsbD_extractLsb', BitReg.getLsbD_word, BitReg.getLsbD_word, h.loopEnd_eq, hsc, Nat.zero_add,
    Nat.add_comm 4 i]
  simp only [show i < 16 by omega, show i + 4 < 16 by omega, hi, decide_true, Bool.true_and]
  exact hbit

end

/-- Settles O42: the four pulses are the passes of the self-check, whose digit and carry are the law's (`digitResult_ref`). -/
theorem decimalLawHoldsThroughTheEngine : Obligations.DecimalLawHoldsThroughTheEngine := by
  unfold Obligations.DecimalLawHoldsThroughTheEngine
  rintro s e a b _ hs href hbcd hw hwf hsop hrop hx hop hsc hrun ha hb ha9 hb9 rfl
  have h := plainRun_of_acc_q hrop hsop hs hw hwf hrun
  have hunheld : (cycleFront e s).hold = none := cycleFront_unheld h.hold (.inl h.plain)
  have hcount : loopCount e s = 4 := by rw [loopCount, h.skip, loopStart_trip h.plain h.off hrun, hsc]; rfl
  have hdigits : BitVec.ofNat 4 a = BitVec.ofNat 4 s.acc.nat ∧ BitVec.ofNat 4 b = BitVec.ofNat 4 s.regs.q.nat :=
    ⟨BitVec.eq_of_toNat_eq (by simp [ha]), BitVec.eq_of_toNat_eq (by simp [hb])⟩
  have hentry := bcdEntry_of_four_pulses h.plain hx href.1 (Entry.alu_of_wf hwf) hcount (a := BitVec.ofNat 4 a) (b := BitVec.ofNat 4 b)
    (fun j hj => by rw [h.sbit_acc hrop hsop (by omega), hdigits.1, BitReg.bit_eq_getLsbD_ofNat _ hj])
    (fun j hj => by rw [h.rbit_q hrop (by omega), hdigits.2, BitReg.bit_eq_getLsbD_ofNat _ hj])
  rw [hbcd, digitResult_ref hop ha9 hb9] at hentry
  obtain ⟨hdigit, hdc⟩ := Prod.mk.inj hentry
  have hq := h.q_rotated hrop (.inr hx)
  rw [hsc] at hq
  refine ⟨runMi e s, rfl, ?_, ?_, ?_, hq⟩
  · rw [h.acc_word_of_dec hx (by rw [hrop]; decide) (by rw [hrop]; decide), hdigit, h.acc_low_of_four hsop (by rw [hrop]; decide) hsc]
  · rw [runMi_of_unheld hunheld, endCycle_dc, nextAddress_dc, decimalCommit_dc (terminate_lastPass_dm.trans (decide_eq_true hx)), hdc]
  · rw [runMi_bc_of_unheld hunheld, if_pos hx, cycleFront_bc h.plain]

end Sys2Proof.Machine
end

section
/-! SUPPORT. Proofs of the family of spec/44_io_arbiter.md: the service request and its acknowledge (R256, R257), the operations without a
handshake (R259, R262, R263, R265, R266, R271 to R273), the directory (R252) and the other agents' transitions (R276, R277). -/

namespace Sys2Proof.Machine

/-! ### The service request (R256, R257) -/

theorem State.serviceRequested_iff (s : State) :
    s.serviceRequested = true ↔ s.arb.ssf = false ∧ ((s.arb.inh = false ∧ s.arb.stb ≠ 0) ∨ s.arb.stp = true) := by
  simp [State.serviceRequested]

theorem exec_ioAck_of_none {s : State} (h : s.serviceRequested = false) : exec .ioAck s = .next s := by
  have hrun : runIoAck s = s := by rw [runIoAck, h, if_neg (by decide)]
  exact congrArg Host.Outcome.next hrun

theorem exec_ioAck_of_requested {s : State} (h : s.serviceRequested = true) :
    exec .ioAck s = .next (serviceRequestAcknowledge s) := by
  have hrun : runIoAck s = serviceRequestAcknowledge s := by rw [runIoAck, h, if_pos rfl]
  exact congrArg Host.Outcome.next hrun

/-- A detour through a longer word loses no bit. -/
theorem setWidth_setWidth_of_ge {w m : Nat} (v : BitVec w) (h : w ≤ m) (n : Nat) : (v.setWidth m).setWidth n = v.setWidth n := by
  apply BitVec.eq_of_getLsbD_eq
  intro i hi
  simp only [BitVec.getLsbD_setWidth, hi, decide_true, Bool.true_and]
  by_cases him : i < m
  · simp [him]
  · simp [him, BitVec.getLsbD_of_ge v i (by omega)]

/-- The acknowledge with the strobes exposed: the strobe vector goes onto the bus and from there into `IOR` (R257). -/
theorem serviceRequestAcknowledge_of_exposed {s : State} (h : s.cfg.exposeStrobes = true) :
    serviceRequestAcknowledge s = { s with
      arb := { s.arb with ssf := true, inh := true, sel := 0 }
      buses := { s.buses with iob := some (s.arb.stb.setWidth 16) }
      regs := { s.regs with ior := { s.regs.ior with val := s.arb.stb.setWidth s.regs.ior.width } } } := by
  have hbus : s.acknowledgeBus = some (s.arb.stb.setWidth 16) := by rw [State.acknowledgeBus, if_pos h]
  rw [serviceRequestAcknowledge, hbus, BitReg.load, Option.getD_some, setWidth_setWidth_of_ge _ (by decide)]

/-- With the strobes hidden `IOR` takes the bus as it stands (R257, D24). -/
theorem serviceRequestAcknowledge_of_hidden {s : State} (h : s.cfg.exposeStrobes = false) :
    serviceRequestAcknowledge s = { s with
      arb := { s.arb with ssf := true, inh := true, sel := 0 }
      regs := { s.regs with ior := { s.regs.ior with val := s.iobValue.setWidth s.regs.ior.width } } } := by
  have hbus : s.acknowledgeBus = s.buses.iob := by rw [State.acknowledgeBus, if_neg (by rw [h]; decide)]
  rw [serviceRequestAcknowledge, hbus]
  rfl

/-- Settles O45: the acknowledge with and without the strobes exposed. -/
theorem acknowledgeTouchesNothingElse : Obligations.AcknowledgeTouchesNothingElse := by
  unfold Obligations.AcknowledgeTouchesNothingElse
  refine fun s => ⟨s.serviceRequested_iff, exec_ioAck_of_none, fun hreq hexp => ?_, fun hreq hhid => ?_⟩
  · rw [exec_ioAck_of_requested hreq, serviceRequestAcknowledge_of_exposed hexp]
    exact ⟨_, rfl, rfl, rfl⟩
  · rw [exec_ioAck_of_requested hreq, serviceRequestAcknowledge_of_hidden hhid]

/-! ### The operations without a handshake (R259, R262, R263, R265, R266, R271 to R273) -/

/-- The trailing clear-flag writes `RDY` alone (R272). -/
theorem ioEnd_eq (hc : Bool) (s : State) : ioEnd hc s = { s with arb := { s.arb with rdy := s.arb.rdy && !hc } } := by
  cases hc
  · rw [ioEnd, if_neg (by decide), Bool.not_false, Bool.and_true]
  · rw [ioEnd, if_pos rfl, Bool.not_true, Bool.and_false]; rfl

/-- Settles O46: the entry block gives `u`, the operation writes its latch, the trailing clear-flag `RDY`. -/
theorem latchOperations : Obligations.LatchOperations := by
  unfold Obligations.LatchOperations
  rintro s u sc hc c1 c2 rfl
  refine ⟨?_, ?_, ?_, ?_, ?_, rfl⟩
  iterate 5 exact congrArg Host.Outcome.next (ioEnd_eq hc _)

/-- The flag of R255 by the directory: an absent device reads as `ABSENT_READY` (R253). -/
theorem State.flag_eq (s : State) :
    s.flag = if lookupDevices s.arb.directory s.arb.sel = [] then s.cfg.absentReady else s.arb.rdy := by
  rw [State.flag, State.present]
  cases lookupDevices s.arb.directory s.arb.sel <;> rfl

/-- Settles O47: the flag is read after the entry block. -/
theorem skipOperationsReportInTheCarry : Obligations.SkipOperationsReportInTheCarry := by
  unfold Obligations.SkipOperationsReportInTheCarry
  rintro s u sc hc f rfl rfl
  rw [← State.flag_eq]
  exact ⟨congrArg Host.Outcome.next (ioEnd_eq hc _), congrArg Host.Outcome.next (ioEnd_eq hc _)⟩

/-! ### The directory (R252) -/

theorem mem_lookupDevices {dir : List DirEntry} {k : SelectCode} {d : DirEntry} :
    d ∈ lookupDevices dir k ↔ d ∈ dir ∧ d.code = k ∧ k ≠ 0 := by
  unfold lookupDevices
  split
  · next h => simp [h]
  · next h => simpa using fun _ _ => h

/-- Settles O48: the lookup filters the directory. -/
theorem lookupKeepsRegistrationOrder : Obligations.LookupKeepsRegistrationOrder := by
  unfold Obligations.LookupKeepsRegistrationOrder
  refine fun dir k d => ⟨rfl, ?_, mem_lookupDevices⟩
  unfold lookupDevices
  split
  · exact List.nil_sublist dir
  · exact List.filter_sublist

/-! ### The other agents (R276, R277) -/

theorem handshakeWith_eq_true {k : SelectCode} {r : Arbiter} : handshakeWith k r = true ↔ r.bsy = true ∧ r.sel = k := by
  simp [handshakeWith]
theorem handshakeWith_eq_false {k : SelectCode} {r : Arbiter} : handshakeWith k r = false ↔ r.bsy = false ∨ r.sel ≠ k := by
  rw [← Bool.not_eq_true, handshakeWith_eq_true, Decidable.not_and_iff_or_not, Bool.not_eq_true]

/-- The strobe bit of a select code stands one below the code; code 0 has none (R41, log entry 31). -/
theorem getLsbD_strobeBit (k : SelectCode) (i : Nat) : (strobeBit k).getLsbD i = decide (i + 1 = k.toNat) := by
  unfold strobeBit
  split
  · next h => simp [h]
  · next h =>
    have hpos : 0 < k.toNat := Nat.pos_of_ne_zero fun h0 => h (BitVec.eq_of_toNat_eq h0)
    have hlt := k.isLt
    rw [BitVec.getLsbD_shiftLeft, BitVec.getLsbD_one]
    by_cases hi : i + 1 = k.toNat
    · simp [hi, show i < 15 by omega, show ¬ i < k.toNat - 1 by omega, show i - (k.toNat - 1) = 0 by omega]
    · by_cases hlow : i < k.toNat - 1
      · simp [hi, hlow]
      · simp [hi, show i - (k.toNat - 1) ≠ 0 by omega]

/-- A PERIPHERAL's transition reaches the arbiter alone (R276). -/
theorem applyEvent_periph (b : Bool) {s : State} {d : DirEntry} (h : d ∈ s.arb.directory) (a : PeriphAct) :
    applyEvent b s (.periph d a) = { s with arb := applyPeriph d.code a s.arb } := by
  rw [applyEvent, if_pos (by simpa using h)]
theorem applyEvent_unregistered (b : Bool) {s : State} {d : DirEntry} (h : d ∉ s.arb.directory) (a : PeriphAct) :
    applyEvent b s (.periph d a) = s := by
  rw [applyEvent, if_neg (by simpa using h)]

theorem applyPeriph_complete (k : SelectCode) (r : Arbiter) :
    applyPeriph k .complete r = if handshakeWith k r then { r with bsy := false, rdy := true } else r := rfl
theorem applyPeriph_ready (k : SelectCode) (v : Bool) (r : Arbiter) :
    applyPeriph k (.ready v) r = if r.sel == k then { r with rdy := v } else r := rfl

/-- Of the arbiter a PERIPHERAL writes the strobes, `BSY` and `RDY` (R276 (a) to (e)). -/
theorem applyPeriph_eq (k : SelectCode) (a : PeriphAct) (r : Arbiter) : applyPeriph k a r = { r with
    stb := (applyPeriph k a r).stb, bsy := (applyPeriph k a r).bsy, rdy := (applyPeriph k a r).rdy } := by
  cases a with
  | raise | withdraw | status => rfl
  | complete => rw [applyPeriph_complete]; split <;> rfl
  | ready v => rw [applyPeriph_ready]; split <;> rfl

/-- What a PERIPHERAL's transition keeps, registered or not. -/
theorem applyEvent_periph_eq (b : Bool) (s : State) (d : DirEntry) (a : PeriphAct) :
    ∃ stb bsy rdy, applyEvent b s (.periph d a) = { s with arb := { s.arb with stb := stb, bsy := bsy, rdy := rdy } } := by
  by_cases h : d ∈ s.arb.directory
  · exact ⟨_, _, _, (applyEvent_periph b h a).trans (by rw [applyPeriph_eq])⟩
  · exact ⟨s.arb.stb, s.arb.bsy, s.arb.rdy, applyEvent_unregistered b h a⟩

/-- Settles O54: the transition writes `applyPeriph` into the arbiter, each act its own fields. -/
theorem peripheralsWriteTheirFieldsOnly : Obligations.PeripheralsWriteTheirFieldsOnly := by
  unfold Obligations.PeripheralsWriteTheirFieldsOnly
  intro s b d a
  obtain ⟨stb, bsy, rdy, hkept⟩ := applyEvent_periph_eq b s d a
  refine ⟨?_, ?_, ?_, ?_, ?_, ?_, ?_, ?_, ?_, ?_, fun h => applyEvent_unregistered b h a, fun h => ?_⟩
  iterate 10 · simp [hkept, SameEngine, SameConfiguration]
  have act := applyEvent_periph b h
  rw [act, act, act, act]
  refine ⟨fun i => ?_, rfl, fun i => ?_, rfl, fun hb hsel => ?_, fun hno => ?_, fun v hsel => ?_, fun v hsel => ?_, rfl⟩
  · simp [applyPeriph, getLsbD_strobeBit]
  · simp only [applyPeriph, BitVec.getLsbD_and, BitVec.getLsbD_not, getLsbD_strobeBit]
    by_cases hi : i < 15
    · simp [hi]
    · simp [BitVec.getLsbD_of_ge s.arb.stb i (Nat.le_of_not_lt hi)]
  · rw [applyPeriph_complete, if_pos (handshakeWith_eq_true.2 ⟨hb, hsel⟩)]
  · rw [applyPeriph_complete, handshakeWith_eq_false.2 hno, if_neg (by decide)]
  · rw [act, applyPeriph_ready, if_pos (beq_iff_eq.2 hsel)]
  · rw [act, applyPeriph_ready, if_neg (mt beq_iff_eq.1 hsel)]

/-- Settles O55: a change of the directory asks whether a handshake with the device is in progress. -/
theorem hostTransitions : Obligations.HostTransitions := by
  unfold Obligations.HostTransitions
  refine fun s b v d => ⟨rfl, fun hfree => ?_, fun hb hsel => ?_⟩
  · have hno := handshakeWith_eq_false.2 hfree
    simp [applyEvent, hno]
  · have hyes := handshakeWith_eq_true.2 ⟨hb, hsel⟩
    simp [applyEvent, hyes]

end Sys2Proof.Machine
end

section
/-! SUPPORT. Proofs of the family of spec/44_io_arbiter.md, the operations with a handshake (R264, R267 to R270, R275, R278): the exact state
after a handshake, and what each operation leaves in the registers, the latches and the log of the device calls. -/

namespace Sys2Proof.Machine

/-! ### The handshake, a device there or not (R253, R275) -/

/-- An output handshake with the devices of a select code. An absent device is the case of no device: no call, no answer (R253). -/
theorem setCEO_out_eq {s : State} {sc : BitVec 5} (hsel : s.arb.sel = sc.setWidth 4) : setCEO .out s = { s with
    arb := { s.arb with bsy := s.answersBusy sc }
    ext := { s.ext with answers := s.ext.answers.drop (s.addressed sc).length, calls := s.offeredTo sc s.iobValue } } := by
  have haddr : lookupDevices s.arb.directory s.arb.sel = s.addressed sc := by rw [hsel]; rfl
  by_cases h : s.addressed sc = []
  · rw [setCEO_absent (haddr.trans h), State.answersBusy, State.offeredTo, h]; rfl
  · rw [setCEO_out (haddr ▸ h), haddr]; rfl

/-- An input handshake with the devices of a select code: the bus takes the OR of their data, 0 for none (R253, R275). -/
theorem setCEO_in_eq {s : State} {sc : BitVec 5} (hsel : s.arb.sel = sc.setWidth 4) : setCEO .inp s = { s with
    arb := { s.arb with bsy := s.answersBusy sc }
    buses := { s.buses with iob := some (s.inputWord sc) }
    ext := { s.ext with answers := s.ext.answers.drop (s.addressed sc).length, calls := s.askedOf sc } } := by
  have haddr : lookupDevices s.arb.directory s.arb.sel = s.addressed sc := by rw [hsel]; rfl
  by_cases h : s.addressed sc = []
  · rw [setCEO_absent (haddr.trans h), State.answersBusy, State.inputWord, State.askedOf, h]; rfl
  · rw [setCEO_in (haddr ▸ h), haddr]; rfl

theorem handshake_of_busy {dir : Dir} {s : State} (h : (setCEO dir s).arb.bsy = true) (f : Hold) :
    handshake dir f s = { setCEO dir s with hold := some f } := by
  rw [handshake, if_pos h]
theorem handshake_of_done {dir : Dir} {s : State} (h : (setCEO dir s).arb.bsy = false) (f : Hold) :
    handshake dir f s = ioFinish f (setCEO dir s) := by
  rw [handshake, if_neg (by rw [h]; decide)]

/-- All that an output handshake does, the hold and the trailing clear-flag with it (R264, R272, R275). -/
theorem handshake_out_eq {s : State} {sc : BitVec 5} (hsel : s.arb.sel = sc.setWidth 4) (hs : s.hold = none) (c : Bool) :
    handshake .out ⟨.none, c⟩ s = { s with
      arb := { s.arb with bsy := s.answersBusy sc, rdy := s.arb.rdy && !(c && !s.answersBusy sc) }
      ext := { s.ext with answers := s.ext.answers.drop (s.addressed sc).length, calls := s.offeredTo sc s.iobValue }
      hold := if s.answersBusy sc then some ⟨.none, c⟩ else none } := by
  have hceo := setCEO_out_eq hsel
  cases hb : s.answersBusy sc with
  | true =>
    rw [handshake_of_busy (by rw [hceo]; exact hb), hceo, hb]
    simp
  | false =>
    rw [handshake_of_done (by rw [hceo]; exact hb), ioFinish, ioEnd_eq, hceo, hb]
    simp [hs]

/-! ### IO_STC (R264) -/

/-- All that IO_STC does, with nothing scheduled. -/
theorem runIoStc_quiet {s : State} (hq : s.Quiet) (hs : s.hold = none) (sc : BitVec 5) (hc : Bool) : runIoStc sc hc s = { s with
    arb := { s.arb with
      ena := true, ssf := false, sel := sc.setWidth 4, bsy := s.answersBusy sc, rdy := s.arb.rdy && !(hc && !s.answersBusy sc) }
    ext := { s.ext with answers := s.ext.answers.drop (s.addressed sc).length, calls := s.offeredTo sc s.iobValue }
    hold := if s.answersBusy sc then some ⟨.none, hc⟩ else none } := by
  rw [runIoStc, ioBegin_quiet hq]
  exact handshake_out_eq (s := { s with arb := { s.arb with ssf := false, sel := sc.setWidth 4, ena := true } }) rfl hs hc

/-- Settles O49: every clause is read off the state after the operation. -/
theorem setControlOffersTheSharedBus : Obligations.SetControlOffersTheSharedBus := by
  unfold Obligations.SetControlOffersTheSharedBus
  intro s sc hc hq hs
  refine ⟨runIoStc sc hc s, rfl, ?_⟩
  rw [runIoStc_quiet hq hs]
  exact ⟨⟨rfl, rfl, rfl, rfl, rfl, rfl, rfl, rfl⟩, ⟨rfl, rfl, rfl, rfl⟩, rfl, rfl, rfl, rfl, rfl, rfl, rfl, rfl, rfl, rfl, rfl, rfl⟩

/-! ### What a transfer leaves (R274) -/

@[simp] theorem transfer_iorByte (k : Nat) (dir : Dir) (aux : Bool) (s : State) :
    (transfer k dir aux s).regs.iorByte = s.regs.iorByte := by
  have hpasses : ∀ (n : Nat) (u : State),
      (transferPasses (transferSet aux s.accName) n u).regs.iorByte = u.regs.iorByte := by
    intro n
    induction n with
    | zero => exact fun u => rfl
    | succ n ih => intro u; rw [transferPasses, ih, aluExec_pass, Regs.pulse_iorByte]
  exact (hpasses k _).trans (State.setAcc_iorByte s _)

/-- The bindings and enables of before stand again after a transfer (D28). -/
theorem transfer_en (k : Nat) (dir : Dir) (aux : Bool) (s : State) (n : RegName) :
    ((transfer k dir aux s).regs.reg n).en = (s.regs.reg n).en := by
  cases n with
  | A | B | IOR | AUX => rfl
  | T | M | P | Q | E => rw [transfer_reg_outside (by decide)]

/-- A register out of the transfer's set keeps its value. -/
theorem transfer_nat {aux : Bool} {s : State} {n : RegName} (h : transferSet aux s.accName n = false) (k : Nat) (dir : Dir) :
    ((transfer k dir aux s).regs.reg n).nat = (s.regs.reg n).nat := by
  have hne : accOf s.ab ≠ n ∧ n ≠ .IOR ∧ (n = .AUX → aux = false) := by
    simp only [transferSet, Bool.or_eq_false_iff, beq_eq_false_iff_ne, Bool.and_eq_false_iff, State.accName_eq] at h
    obtain ⟨⟨hacc, hior⟩, haux⟩ := h
    exact ⟨hacc.symm, hior, fun hn => haux.resolve_right (not_not_intro hn)⟩
  obtain ⟨hacc, hior, haux⟩ := hne
  have hwired : (wireTransfer dir aux s).regs.reg n = s.regs.reg n := by
    have hset := State.setAcc_reg_other hacc (wireAcc dir s.accName s.acc)
    refine Eq.trans ?_ hset
    cases n with
    | IOR => exact absurd rfl hior
    | AUX => simp [wireTransfer, haux rfl, wireAux, Regs.reg]
    | A | B | T | M | P | Q | E => rfl
  have hmoved := transferPasses_reg_outside h k (wireTransfer dir aux s)
  have hrestored : ∀ old r : Regs, ((restoreWiring old r).reg n).nat = (r.reg n).nat := by intro old r; cases n <;> rfl
  rw [transfer, hrestored, hmoved, hwired]

/-! ### The loads (R267, R268) -/

/-- The state a load transfers from: `IOR` has latched the bus (R267, R268). -/
def latched (s : State) : State :=
  { s with regs := { s.regs with ior := s.regs.ior.load s.iobValue } }

section
variable {s : State}

theorem latchAndShift_eq (k : Nat) : latchAndShift k s = transfer k .inp false (latched s) := rfl

theorem latched_words (h : s.DefaultWidths) : (latched s).Words := State.DefaultWidths.words (s := latched s) h
theorem latched_ior (h : s.DefaultWidths) : (latched s).regs.ior.word = s.iobValue := BitReg.load_word h.words.2.1 _

/-- A 16-pass load over registers of the default widths (R268). -/
theorem latchAndShift16_words (hw : s.DefaultWidths) (h : s.regs.iorByte = false) :
    (latchAndShift 16 s).regs.ior.word = s.iobValue ∧ (latchAndShift 16 s).acc.word = s.iobValue := by
  obtain ⟨hacc, hior, -⟩ := transfer_in16 (latched_words hw) h
  rw [latchAndShift_eq, hacc, hior, latched_ior hw]
  exact ⟨rfl, rfl⟩

/-- An 8-pass load (R267). -/
theorem latchAndShift8_words (hw : s.DefaultWidths) (h : s.regs.iorByte = true) :
    (latchAndShift 8 s).regs.ior.word = s.iobValue ∧
      (latchAndShift 8 s).acc.word = s.iobValue.extractLsb' 0 8 ++ s.acc.word.extractLsb' 8 8 := by
  obtain ⟨hacc, hior, -⟩ := transfer_in8 (latched_words hw) h
  rw [latchAndShift_eq, hacc, hior, latched_ior hw]
  exact ⟨rfl, rfl⟩

theorem latchAndShift_nat {n : RegName} (hacc : n ≠ accOf s.ab) (hior : n ≠ .IOR) (k : Nat) :
    ((latchAndShift k s).regs.reg n).nat = (s.regs.reg n).nat := by
  refine (transfer_nat ?_ k .inp).trans (congrArg BitReg.nat (Regs.reg_ior hior _ _))
  simpa [transferSet, State.accName_eq, hior] using hacc
@[simp] theorem latchAndShift_iorByte (k : Nat) : (latchAndShift k s).regs.iorByte = s.regs.iorByte :=
  transfer_iorByte k .inp false _
theorem latchAndShift_en (k : Nat) (n : RegName) : ((latchAndShift k s).regs.reg n).en = (s.regs.reg n).en := by
  refine (transfer_en k .inp false _ n).trans ?_
  cases n <;> rfl

end

/-- The state in which a load or an output operation begins its transfer, with nothing scheduled (R259, R267 to R270). -/
def entered (sc : BitVec 5) (byte : Bool) (s : State) : State :=
  { s with arb := { s.arb with ssf := false, sel := sc.setWidth 4 }, regs := { s.regs with iorByte := byte } }

section
variable {s : State} {sc : BitVec 5} {hc : Bool}

theorem entered_nat (byte : Bool) (n : RegName) : ((entered sc byte s).regs.reg n).nat = (s.regs.reg n).nat := by
  rw [entered, Regs.reg_iorByte]

theorem runIoLi8_quiet (hq : s.Quiet) : runIoLi8 sc hc s = handshake .inp ⟨.load8, hc⟩ (entered sc true s) := by
  rw [runIoLi8, ioBegin_quiet hq]; rfl
theorem runIoLi16_quiet (hq : s.Quiet) : runIoLi16 sc hc s = handshake .inp ⟨.load16, hc⟩ (entered sc false s) := by
  rw [runIoLi16, ioBegin_quiet hq]; rfl

/-- The state after the input handshake of a load. -/
def asked (sc : BitVec 5) (byte : Bool) (s : State) : State :=
  { entered sc byte s with
    arb := { s.arb with ssf := false, sel := sc.setWidth 4, bsy := s.answersBusy sc }
    buses := { s.buses with iob := some (s.inputWord sc) }
    ext := { s.ext with answers := s.ext.answers.drop (s.addressed sc).length, calls := s.askedOf sc } }

theorem setCEO_entered (byte : Bool) : setCEO .inp (entered sc byte s) = asked sc byte s :=
  setCEO_in_eq (s := entered sc byte s) rfl

/-- With nothing to lift the hold the state is its own next state (U2). -/
theorem step_of_stuck {u : State} (h : u.Stuck) : step u = .next u := by
  obtain ⟨hhold, hbsy, hq⟩ := h
  obtain ⟨f, hf⟩ := Option.isSome_iff_exists.1 hhold
  have hstep : step u = .next (heldStep f u) := by rw [step, hf]
  rw [hstep, heldStep, interleave_quiet hq, if_pos hbsy]

/-- A load whose device stays busy: held, its registers as they were, the data on the bus (R267, R268, R275, U2). -/
theorem load_held (hq : s.Quiet) (hb : s.answersBusy sc = true) (f : Hold) (byte : Bool) :
    ∃ t, handshake .inp f (entered sc byte s) = t ∧ t.hold = some f ∧ t.arb.bsy = true ∧
      (∀ n : RegName, t.regs.value n = s.regs.value n) ∧ t.buses.iob = some (s.inputWord sc) ∧ step t = .next t := by
  refine ⟨_, handshake_of_busy (by rw [setCEO_entered]; exact hb) f, ?_⟩
  rw [setCEO_entered]
  refine ⟨rfl, hb, fun n => ?_, rfl, step_of_stuck ⟨rfl, hb, hq⟩⟩
  rw [Regs.value_reg, Regs.value_reg]
  exact entered_nat (sc := sc) byte n

/-- Settles O51: both loads are `load_held`. -/
theorem busyLoadHoldsTheEngine : Obligations.BusyLoadHoldsTheEngine := by
  unfold Obligations.BusyLoadHoldsTheEngine
  intro s sc hc hq hb
  obtain ⟨t, ht, held⟩ := load_held hq hb ⟨.load8, hc⟩ true
  obtain ⟨u, hu, held'⟩ := load_held hq hb ⟨.load16, hc⟩ false
  exact ⟨⟨t, congrArg Host.Outcome.next ((runIoLi8_quiet hq).trans ht), held⟩,
    ⟨u, congrArg Host.Outcome.next ((runIoLi16_quiet hq).trans hu), held'⟩⟩

/-- What a load without a busy device leaves beside the words it loads: the latches, the log, every other register (R267, R268, R272). -/
abbrev Loaded (s : State) (sc : BitVec 5) (hc byte : Bool) (t : State) : Prop :=
  t.regs.iorByte = byte ∧
  t.arb = { s.arb with ssf := false, sel := sc.setWidth 4, bsy := false, rdy := s.arb.rdy && !hc } ∧ t.hold = none ∧
  t.ext.calls = s.askedOf sc ∧
  (∀ n : RegName, n ≠ s.accName → n ≠ .IOR → t.regs.value n = s.regs.value n) ∧
  t.csa = s.csa ∧ t.ab = s.ab ∧ t.bc = s.bc ∧ t.dc = s.dc ∧ t.mem = s.mem ∧ SameConfiguration s t

theorem loaded_of_not_busy (hs : s.hold = none) (hb : s.answersBusy sc = false) (byte : Bool) (k : Nat) :
    Loaded s sc hc byte (ioEnd hc (latchAndShift k (asked sc byte s))) := by
  have hothers : ∀ n : RegName, n ≠ s.accName → n ≠ .IOR →
      (ioEnd hc (latchAndShift k (asked sc byte s))).regs.value n = s.regs.value n := fun n hacc hior => by
    rw [Regs.value_reg, Regs.value_reg, ioEnd_regs, latchAndShift_nat (s := asked sc byte s) hacc hior]
    exact entered_nat (sc := sc) byte n
  refine ⟨?_, ?_, ?_, ?_, hothers, ?_⟩ <;> simp [SameConfiguration, asked, entered, hb, hs]

theorem ioEnd_acc (hc : Bool) (u : State) : (ioEnd hc u).acc = u.acc := by simp [State.acc]

/-- Settles O50: without a busy device the load goes on to its transfer at once. -/
theorem loadOperationsFillTheAccumulator : Obligations.LoadOperationsFillTheAccumulator := by
  unfold Obligations.LoadOperationsFillTheAccumulator
  rintro s sc hc _ hq hw hs hb rfl
  have hdone : ∀ (byte : Bool) (f : Hold), handshake .inp f (entered sc byte s) = ioFinish f (asked sc byte s) := fun byte f => by
    rw [handshake_of_done (by rw [setCEO_entered]; exact hb), setCEO_entered]
  have h8 : runIoLi8 sc hc s = ioEnd hc (latchAndShift 8 (asked sc true s)) := (runIoLi8_quiet hq).trans (hdone _ _)
  have h16 : runIoLi16 sc hc s = ioEnd hc (latchAndShift 16 (asked sc false s)) := (runIoLi16_quiet hq).trans (hdone _ _)
  obtain ⟨hior8, hacc8⟩ := latchAndShift8_words (s := asked sc true s) hw rfl
  obtain ⟨hior16, hacc16⟩ := latchAndShift16_words (s := asked sc false s) hw rfl
  refine ⟨⟨_, congrArg Host.Outcome.next h8, ?_, ?_, loaded_of_not_busy hs hb true 8⟩,
    ⟨_, congrArg Host.Outcome.next h16, ?_, ?_, loaded_of_not_busy hs hb false 16⟩⟩
  · rw [ioEnd_regs, hior8]; rfl
  · rw [ioEnd_acc, hacc8]; rfl
  · rw [ioEnd_regs, hior16]; rfl
  · rw [ioEnd_acc, hacc16]; rfl

/-! ### The outputs (R269, R270, R278) -/

/-- The devices' answers and the log depend on the directory, the schedule of answers and the log alone (R254). -/
theorem State.answersBusy_congr {t : State} (hdir : t.arb.directory = s.arb.directory) (hext : t.ext = s.ext) (sc : BitVec 5) :
    t.answersBusy sc = s.answersBusy sc := by
  have haddr : t.addressed sc = s.addressed sc := by rw [State.addressed, hdir]; rfl
  rw [State.answersBusy, State.answersBusy, haddr, State.nextAnswers_congr hext]
theorem State.offeredTo_congr {t : State} (hdir : t.arb.directory = s.arb.directory) (hext : t.ext = s.ext) (sc : BitVec 5) (v : Word) :
    t.offeredTo sc v = s.offeredTo sc v := by
  rw [State.offeredTo, State.addressed, hdir, hext]; rfl

/-- All that the end of an output operation of the class INTERNAL does: no handshake (R278). -/
theorem offer_internal_eq (h : outClass s.cfg s.arb.sel = .internal) (v : Word) :
    offer v hc s = { s with buses := { s.buses with iob := some v }, arb := { s.arb with rdy := s.arb.rdy && !hc } } := by
  unfold offer
  dsimp only
  rw [h]
  exact ioEnd_eq hc _

/-- All that the end of an output operation of another class does: the handshake with the value on the bus (R269, R270, R275). -/
theorem offer_shared_eq (h : outClass s.cfg s.arb.sel ≠ .internal) (hsel : s.arb.sel = sc.setWidth 4) (hs : s.hold = none) (v : Word) :
    offer v hc s = { s with
      buses := { s.buses with iob := some v }
      arb := { s.arb with bsy := s.answersBusy sc, rdy := s.arb.rdy && !(hc && !s.answersBusy sc) }
      ext := { s.ext with answers := s.ext.answers.drop (s.addressed sc).length, calls := s.offeredTo sc v }
      hold := if s.answersBusy sc then some ⟨.none, hc⟩ else none } := by
  have hshake := handshake_out_eq (s := { s with buses := { s.buses with iob := some v } }) hsel hs hc
  unfold offer
  dsimp only
  split
  · next hint => exact absurd hint h
  · exact hshake
  · exact hshake

/-- What an output operation leaves beside the words it moves: the latches and the log by the class, every other register (R269, R270,
R272, R278). -/
abbrev Output (s : State) (sc : BitVec 5) (hc byte : Bool) (v : Word) (t : State) : Prop :=
  t.regs.iorByte = byte ∧ t.buses.iob = some v ∧
  (outClass s.cfg (sc.setWidth 4) ≠ .internal → t.ext.calls = s.offeredTo sc v ∧
    t.ext.answers = s.ext.answers.drop (s.addressed sc).length ∧
    t.hold = (if s.answersBusy sc then some ⟨.none, hc⟩ else none) ∧
    t.arb = { s.arb with
      ssf := false, sel := sc.setWidth 4, bsy := s.answersBusy sc, rdy := s.arb.rdy && !(hc && !s.answersBusy sc) }) ∧
  (outClass s.cfg (sc.setWidth 4) = .internal → t.ext = s.ext ∧ t.hold = none ∧
    t.arb = { s.arb with ssf := false, sel := sc.setWidth 4, rdy := s.arb.rdy && !hc }) ∧
  (∀ n : RegName, n ≠ s.accName → n ≠ .IOR → n ≠ .AUX → t.regs.value n = s.regs.value n) ∧
  t.csa = s.csa ∧ t.ab = s.ab ∧ t.bc = s.bc ∧ t.dc = s.dc ∧ t.mem = s.mem ∧ SameConfiguration s t

theorem transferOut_value {n : RegName} (hacc : n ≠ s.accName) (hior : n ≠ .IOR) (haux : n ≠ .AUX) (byte : Bool) (k : Nat) :
    (transferOut k (entered sc byte s)).regs.value n = s.regs.value n := by
  have hn : n ≠ (entered sc byte s).accName := hacc
  rw [Regs.value_reg, Regs.value_reg, transferOut, transfer_nat (by simp [transferSet, hn, hior, haux])]
  exact entered_nat (sc := sc) byte n

theorem offer_output (hs : s.hold = none) (byte : Bool) (k : Nat) (v : Word) :
    Output s sc hc byte v (offer v hc (transferOut k (entered sc byte s))) := by
  have harb : (transferOut k (entered sc byte s)).arb = { s.arb with ssf := false, sel := sc.setWidth 4 } := transferOut_arb _ _
  have hext : (transferOut k (entered sc byte s)).ext = s.ext := transferOut_ext _ _
  have hhold : (transferOut k (entered sc byte s)).hold = none := (transferOut_hold _ _).trans hs
  have hcfg : (transferOut k (entered sc byte s)).cfg = s.cfg := transferOut_cfg _ _
  have hbyte : (transferOut k (entered sc byte s)).regs.iorByte = byte := transfer_iorByte k .out _ _
  have hdir : (transferOut k (entered sc byte s)).arb.directory = s.arb.directory := by rw [harb]
  have hbusy := State.answersBusy_congr hdir hext sc
  have haddr : (transferOut k (entered sc byte s)).addressed sc = s.addressed sc := by rw [State.addressed, hdir]; rfl
  have hclass : outClass (transferOut k (entered sc byte s)).cfg (transferOut k (entered sc byte s)).arb.sel =
      outClass s.cfg (sc.setWidth 4) := by rw [hcfg, harb]
  have hshared := fun h => offer_shared_eq (hc := hc) (sc := sc) (hclass ▸ h) (by rw [harb]) hhold v
  have hinternal := fun h => offer_internal_eq (hc := hc) (hclass.trans h) v
  refine ⟨?_, ?_, fun h => ?_, fun h => ?_, fun n hacc hior haux => ?_, ?_⟩
  · rw [offer_regs, hbyte]
  · by_cases h : outClass s.cfg (sc.setWidth 4) = .internal
    · rw [hinternal h]
    · rw [hshared h]
  · rw [hshared h, hbusy, haddr, harb, hext, State.offeredTo_congr hdir hext]
    exact ⟨rfl, rfl, rfl, rfl⟩
  · rw [hinternal h, harb]
    exact ⟨hext, hhold, rfl⟩
  · rw [offer_regs]; exact transferOut_value hacc hior haux byte k
  · simp [SameConfiguration, entered]

theorem runIoOt8_quiet (hq : s.Quiet) : runIoOt8 sc hc s =
    offer (((transferOut 8 (entered sc true s)).regs.ior.word.extractLsb' 0 8).setWidth 16) hc (transferOut 8 (entered sc true s)) := by
  rw [runIoOt8, ioBegin_quiet hq]; rfl
theorem runIoOt16_quiet (hq : s.Quiet) : runIoOt16 sc hc s =
    offer (transferOut 16 (entered sc false s)).regs.ior.word hc (transferOut 16 (entered sc false s)) := by
  rw [runIoOt16, ioBegin_quiet hq]; rfl

/-- The words an 8-pass output leaves (R269, R278). -/
theorem transferOut8_words (hw : s.DefaultWidths) :
    (transferOut 8 (entered sc true s)).regs.ior.word = s.regs.ior.word.extractLsb' 8 8 ++ s.acc.word.extractLsb' 0 8 ∧
    (transferOut 8 (entered sc true s)).acc.word = s.acc.word.extractLsb' 0 8 ++ s.acc.word.extractLsb' 8 8 ∧
    (transferOut 8 (entered sc true s)).regs.aux.word = if outClass s.cfg (sc.setWidth 4) = .auxbuf
      then s.acc.word.extractLsb' 0 8 ++ s.regs.aux.word.extractLsb' 8 8 else s.regs.aux.word := by
  obtain ⟨hacc, hior, haux⟩ := transfer_out8 (s := entered sc true s) (State.DefaultWidths.words hw) rfl
    (outClass s.cfg (sc.setWidth 4) == .auxbuf)
  exact ⟨hior, hacc, haux.trans (by simp only [beq_iff_eq]; rfl)⟩

/-- The words a 16-pass output leaves (R270, R278). -/
theorem transferOut16_words (hw : s.DefaultWidths) :
    (transferOut 16 (entered sc false s)).regs.ior.word = s.acc.word ∧
    (transferOut 16 (entered sc false s)).acc.word = s.acc.word ∧
    (transferOut 16 (entered sc false s)).regs.aux.word =
      if outClass s.cfg (sc.setWidth 4) = .auxbuf then s.acc.word else s.regs.aux.word := by
  obtain ⟨hacc, hior, haux⟩ := transfer_out16 (s := entered sc false s) (State.DefaultWidths.words hw) rfl
    (outClass s.cfg (sc.setWidth 4) == .auxbuf)
  exact ⟨hior, hacc, haux.trans (by simp only [beq_iff_eq]; rfl)⟩

theorem offer_acc (v : Word) (u : State) : (offer v hc u).acc = u.acc := by simp [State.acc, offer_regs]

end

/-- A rotation by half a word exchanges its bytes. -/
theorem rotateRight_8 (v : Word) : v.rotateRight 8 = v.extractLsb' 0 8 ++ v.extractLsb' 8 8 := by
  apply BitVec.eq_of_getLsbD_eq
  intro i hi
  rw [getLsbD_rotateRight_of_le v (by decide) hi, BitVec.getLsbD_append, BitVec.getLsbD_extractLsb', BitVec.getLsbD_extractLsb']
  by_cases h : i < 8
  · simp [h, show i + 8 < 16 by omega, Nat.add_comm]
  · simp [h, show ¬ i + 8 < 16 by omega, show i - 8 < 8 by omega, show i + 8 - 16 = i - 8 by omega]

/-- The low byte of a word put together of two. -/
theorem extractLsb'_low_append (u v : BitVec 8) : (u ++ v).extractLsb' 0 8 = v := by
  apply BitVec.eq_of_getLsbD_eq
  intro i hi
  rw [BitVec.getLsbD_extractLsb', Nat.zero_add, BitVec.getLsbD_append]
  simp [hi]

/-- The classes of R278 with `SC_AUX` = 15 (D22). -/
theorem outClass_default (k : SelectCode) :
    outClass defaultParams k = if k = 0 then .internal else if k = 15 then .auxbuf else .std := by
  revert k; decide

/-- Settles O52: the transfer moves the words, the offer what the other agents see. -/
theorem outputOperationsOfferTheAccumulator : Obligations.OutputOperationsOfferTheAccumulator := by
  unfold Obligations.OutputOperationsOfferTheAccumulator
  refine ⟨outClass_default, ?_⟩
  rintro s sc hc _ hq hw hs rfl
  obtain ⟨hior8, hacc8, haux8⟩ := transferOut8_words (sc := sc) hw
  obtain ⟨hior16, hacc16, haux16⟩ := transferOut16_words (sc := sc) hw
  have hlow : (transferOut 8 (entered sc true s)).regs.ior.word.extractLsb' 0 8 = s.acc.word.extractLsb' 0 8 := by
    rw [hior8, extractLsb'_low_append]
  refine ⟨⟨_, congrArg Host.Outcome.next ((runIoOt8_quiet hq).trans (by rw [hlow])), ?_, ?_, ?_, offer_output hs true 8 _⟩,
    ⟨_, congrArg Host.Outcome.next ((runIoOt16_quiet hq).trans (by rw [hior16])), ?_, ?_, ?_, offer_output hs false 16 _⟩⟩
  · rw [offer_regs, hior8]
  · rw [offer_acc, hacc8, rotateRight_8]
  · rw [offer_regs, haux8]
  · rw [offer_regs, hior16]
  · rw [offer_acc, hacc16]
  · rw [offer_regs, haux16]

end Sys2Proof.Machine
end

section
/-! SUPPORT. Proofs of the family of spec/44_io_arbiter.md, the service-request state machine (R256, R259, R271, R280, R305, R309): what one
control word does to `SSF` and `INH`, whatever is scheduled. -/

namespace Sys2Proof.Machine

theorem handshake_ssf_inh (dir : Dir) (f : Hold) (s : State) :
    (handshake dir f s).arb.ssf = s.arb.ssf ∧ (handshake dir f s).arb.inh = s.arb.inh := by
  have hceo : (setCEO dir s).arb.ssf = s.arb.ssf ∧ (setCEO dir s).arb.inh = s.arb.inh := by
    rw [setCEO_arb]; exact ⟨rfl, rfl⟩
  have hfin := ioFinish_keepsLatches f (setCEO dir s)
  unfold handshake
  dsimp only
  split
  · exact hceo
  · exact ⟨hfin.ssf.trans hceo.1, hfin.inh.trans hceo.2⟩

theorem offer_ssf_inh (v : Word) (hc : Bool) (s : State) :
    (offer v hc s).arb.ssf = s.arb.ssf ∧ (offer v hc s).arb.inh = s.arb.inh := by
  unfold offer
  dsimp only
  split
  · rw [ioEnd_arb]; exact ⟨rfl, rfl⟩
  all_goals exact handshake_ssf_inh _ _ _

@[simp] theorem ioBegin_inh (sc : BitVec 5) (s : State) : (ioBegin sc s).arb.inh = s.arb.inh :=
  (interleave_keepsLatches (leaveAcknowledged sc s)).inh

/-- A dispatched operation leaves the acknowledged state; IO_EOW alone clears `INH` (R259, R271). -/
theorem dispatchIo_ssf_inh (i : IoWord) (s : State) :
    (dispatchIo i s).arb.ssf = false ∧ (dispatchIo i s).arb.inh = (s.arb.inh && decide (i.op ≠ .eow)) := by
  unfold dispatchIo
  cases i.op with
  | stf | sfc | clc | sfs | nopLow c | nopHigh c => simp [runIoStf, runIoSfc, runIoClc, runIoSfs, runIoNopLow, runIoNopHigh]
  | eow => simp [runIoEow, endService]
  | stc | li8 | li16 => simp [runIoStc, runIoLi8, runIoLi16, handshake_ssf_inh]
  | ot8 | ot16 => simp [runIoOt8, runIoOt16, offer_ssf_inh]

theorem ofCode_eq_eow_iff (c : BitVec 4) : IoOp.ofCode c = .eow ↔ c = 9 := by
  revert c; decide

section
variable {e : Entry} {s : State}

/-- After step 3 nothing of the word writes `SSF` or `INH`, held or not. -/
theorem runMi_keepsLatches (e : Entry) (s : State) : KeepsLatches (cycleFront e s) (runMi e s) := by
  unfold runMi
  dsimp only
  split
  · exact .of_arb rfl
  · exact cycleBack_keepsLatches e _

theorem cycleFront_arb_of_not_ios (h : e.rop ≠ .ios) : (cycleFront e s).arb = s.arb := by
  obtain ⟨harb, -⟩ := runR_arb h (beforeR e s)
  rw [cycleFront_eq, harb, beforeR_arb]

/-- With `Q.IOE` set the I/O start dispatches the operation in `Q` (R259). -/
theorem cycleFront_ssf_inh_of_dispatch (h : e.rop = .ios) (hioe : s.qIoe = true) :
    (cycleFront e s).arb.ssf = false ∧ (cycleFront e s).arb.inh = (s.arb.inh && decide (s.qIoop ≠ 9)) := by
  have hq : (beforeR e s).qIoe = true := by rw [beforeR_qIoe, hioe]
  rw [cycleFront_of_ios h]
  rcases arbiterExec_cases (beforeR e s) with ⟨-, hrun⟩ | ⟨hno, -⟩ | ⟨hno, -⟩
  · obtain ⟨hssf, hinh⟩ := dispatchIo_ssf_inh (beforeR e s).opInQ (beforeR e s)
    rw [hrun, hssf, hinh]
    simp [State.opInQ, ofCode_eq_eow_iff]
  all_goals exact absurd hno (by simp [hq])

/-- With `Q.IOE` clear it acknowledges a pending request, or does nothing (R257, R259). -/
theorem cycleFront_arb_of_poll (h : e.rop = .ios) (hioe : s.qIoe = false) : (cycleFront e s).arb =
    if s.serviceRequested then { s.arb with ssf := true, inh := true, sel := 0 } else s.arb := by
  rw [cycleFront_of_ios h]
  rcases arbiterExec_cases (beforeR e s) with ⟨hyes, -⟩ | ⟨-, hreq, hrun⟩ | ⟨-, hreq, hrun⟩
  · exact absurd hyes (by simp [hioe])
  · have hack : (serviceRequestAcknowledge (beforeR e s)).arb = { (beforeR e s).arb with ssf := true, inh := true, sel := 0 } := rfl
    rw [beforeR_serviceRequested] at hreq
    rw [hrun, hack, beforeR_arb, hreq, if_pos rfl]
  · rw [beforeR_serviceRequested] at hreq
    rw [hrun, beforeR_arb, hreq, if_neg (by decide)]

end

/-- Settles O57: after step 3, which `Q.IOE` and the pending request decide, the word keeps both latches. -/
theorem serviceRequestStateMachine : Obligations.ServiceRequestStateMachine := by
  unfold Obligations.ServiceRequestStateMachine
  intro s t e _ ht
  obtain rfl : runMi e s = t := Host.Outcome.next.inj ht
  obtain ⟨hssf, hinh, -⟩ := runMi_keepsLatches e s
  rw [hssf, hinh]
  refine ⟨fun hop => ?_, fun hop hioe hreq => ?_, fun hop hioe hreq => ?_, cycleFront_ssf_inh_of_dispatch⟩
  · rw [cycleFront_arb_of_not_ios hop]; exact ⟨rfl, rfl⟩
  · rw [cycleFront_arb_of_poll hop hioe, hreq, if_pos rfl]; exact ⟨rfl, rfl⟩
  · rw [cycleFront_arb_of_poll hop hioe, hreq, if_neg (by decide)]; exact ⟨rfl, rfl⟩

end Sys2Proof.Machine
end

section
/-! SUPPORT. Proofs of the family of spec/44_io_arbiter.md, the engine held at a handshake (R267, R268, R272, R275): the cycle from step 4 on,
begun in any state, and what a held engine does once `BSY` is down. -/

namespace Sys2Proof.Machine

/-! ### Steps 4 to 12 from any state (R194 to R212) -/

/-- The state the shift loop starts from, where step 3 left `u`. -/
def backStart (e : Entry) (u : State) : State :=
  aluInit (tripCount e (runX e.xop (armTargets e u)))

/-- The state after the last evaluation of the loop. -/
def backLast (e : Entry) (u : State) : State :=
  aluPass e.alu (pulses e (if e.skip then 0 else (backStart e u).cyc.trip) (backStart e u))

/-- Steps 4 to 12 by the terminating pass (R205 to R212). -/
theorem cycleBack_eq (e : Entry) (u : State) :
    cycleBack e u = endCycle (nextAddress e (decimalCommit e.aop (terminate e (backLast e u)))) := by
  have hloop : runLoop e (tripCount e (runX e.xop (armTargets e u))) = terminate e (backLast e u) := by
    unfold backLast
    cases h : e.skip
    · exact shiftLoop_pulses h _ _
    · exact shiftLoop_skip h _ _
  rw [cycleBack, hloop]

section
variable {e : Entry} {u : State}

@[simp] theorem backLast_csa : (backLast e u).csa = u.csa := by
  simp [backLast, backStart, pulses_keep e _ _ State.csa fun _ => rfl]
@[simp] theorem backLast_bc : (backLast e u).bc = u.bc := by simp [backLast, backStart]
@[simp] theorem backLast_dc : (backLast e u).dc = u.dc := by simp [backLast, backStart]
@[simp] theorem backLast_cfg : (backLast e u).cfg = u.cfg := by simp [backLast, backStart]
theorem backLast_ab : (backLast e u).ab = if e.xop = .cab then !u.ab else u.ab := by simp [backLast, backStart, runX_ab]
theorem backLast_widths : (backLast e u).regs.widths = u.regs.widths := by
  have h := pulses_keep e (if e.skip then 0 else (backStart e u).cyc.trip) (backStart e u) (·.regs.widths) fun v => by simp
  exact h.trans (by simp [backStart])

/-- With nothing scheduled the test of step 7 lets no other agent act (R200). -/
theorem backLast_quiet (hq : u.Quiet) : (backLast e u).arb = u.arb ∧ (backLast e u).ext = u.ext := by
  have hset : (runX e.xop (armTargets e u)).Quiet := by simpa [State.Quiet] using hq
  obtain ⟨harb, hext⟩ := tripCount_quiet (e := e) (.inl hset)
  simp [backLast, backStart, harb, hext]

theorem backLast_dm : (backLast e u).cyc.dm = (u.cyc.dm || decide (e.xop = .dec)) := by
  have hlast : (backLast e u).cyc.dm = (backStart e u).cyc.dm := pulses_dm e _ _
  have hstart : (backStart e u).cyc.dm = (runX e.xop (armTargets e u)).cyc.dm := by
    rw [backStart, aluInit, tripCount_cyc]
  rw [hlast, hstart, runX_cyc, armTargets_cyc]
  split <;> simp [*]

/-- A register that is off after step 3, and that steps 4 and 5 do not arm, does not move (R206). -/
theorem backLast_reg {n : RegName} (hen : (u.regs.reg n).en = false) (hf : ¬ Feeds e u.ab n) :
    (backLast e u).regs.reg n = u.regs.reg n := by
  simp only [Feeds, not_or] at hf
  obtain ⟨hx, ht, hm⟩ := hf
  have hstart : (backStart e u).regs.reg n = u.regs.reg n := by
    rw [backStart, aluInit_regs, tripCount_regs, runX_reg, armTargets_reg, armTargets_ab, if_neg hx, if_neg (not_or.2 ⟨ht, hm⟩)]
  have hpulses := pulses_off (e := e) (k := if e.skip then 0 else (backStart e u).cyc.trip) (by rw [hstart]; exact hen)
  exact hpulses.trans hstart

/-- A register after the cycle is as the last evaluation found it, but for the bit of X_QB and the decimal digit (R207, R209). -/
theorem cycleBack_reg {n : RegName} (hq : n ≠ .Q ∨ e.xop ≠ .qb) (hd : (backLast e u).cyc.dm = false ∨ n ≠ .A ∧ n ≠ .B) :
    (cycleBack e u).regs.reg n = ((backLast e u).regs.reg n).release n := by
  have hdec : (terminate e (backLast e u)).cyc.dm = false ∨ n ≠ accOf (terminate e (backLast e u)).ab := by
    rw [terminate_cyc]
    exact hd.imp id fun ⟨ha, hb⟩ => ne_accOf ha hb
  rw [cycleBack_eq, endCycle_regs, nextAddress_regs, Regs.release_reg, decimalCommit_reg hdec, terminate_reg hq]

theorem cycleBack_bit {n : RegName} (hq : n ≠ .Q ∨ e.xop ≠ .qb) (hd : (backLast e u).cyc.dm = false ∨ n ≠ .A ∧ n ≠ .B) (i : Nat) :
    ((cycleBack e u).regs.reg n).bit i = ((backLast e u).regs.reg n).bit i := by
  rw [cycleBack_reg hq hd, BitReg.release_bit]

theorem cycleBack_nat {n : RegName} (hen : (u.regs.reg n).en = false) (hf : ¬ Feeds e u.ab n) (hq : n ≠ .Q ∨ e.xop ≠ .qb)
    (hd : (backLast e u).cyc.dm = false ∨ n ≠ .A ∧ n ≠ .B) : ((cycleBack e u).regs.reg n).nat = (u.regs.reg n).nat := by
  rw [cycleBack_reg hq hd, BitReg.release_nat, backLast_reg hen hf]

/-- `IOR` is fed by no operation of a word. -/
theorem cycleBack_ior (hen : u.regs.ior.en = false) : (cycleBack e u).regs.ior.nat = u.regs.ior.nat :=
  cycleBack_nat (n := .IOR) hen (by simp [Feeds, xTarget_eq_some, ne_accOf]) (.inl (by decide)) (.inr (by decide))

theorem cycleBack_ab : (cycleBack e u).ab = (backLast e u).ab := by simp [cycleBack_eq]

/-- The accumulator of a word that neither drives nor feeds it, in binary mode. -/
theorem cycleBack_acc (hen : u.acc.en = false) (hdm : u.cyc.dm = false) (hx : e.xop ≠ .acc) (hd : e.xop ≠ .dec) (hc : e.xop ≠ .cab) :
    (cycleBack e u).acc.nat = u.acc.nat := by
  obtain ⟨-, -, haq⟩ := accOf_plain u.ab
  have hf : ¬ Feeds e u.ab (accOf u.ab) := by
    cases u.ab <;> simp [Feeds, xTarget_eq_some, hx, accOf]
  have hab : (cycleBack e u).ab = u.ab := by rw [cycleBack_ab, backLast_ab, if_neg hc]
  rw [State.acc_reg] at hen
  rw [State.acc_reg, State.acc_reg, hab]
  exact cycleBack_nat hen hf (.inl haq) (.inl (by rw [backLast_dm, hdm, decide_eq_false hd]; rfl))

/-- The address moves by the mask of the branch flag (R211). -/
theorem cycleBack_csa_brt : (cycleBack e u).csa = u.csa ^^^ nextMask e (terminate e (backLast e u)).cyc.brt := by
  simp [cycleBack_eq]

theorem cycleBack_csa_of_brq (hb : e.brq = true) (hq : u.Quiet) :
    (cycleBack e u).csa = u.csa ^^^ nextMask e ((backLast e u).qual (backLast e u).qsel) := by
  have hlast : (backLast e u).Quiet := by rw [State.Quiet, (backLast_quiet hq).2]; exact hq
  rw [cycleBack_csa_brt, terminate, if_pos hb, commitCarry_cyc, specialCase_cyc, runBrq_quiet hlast]

/-- With nothing scheduled steps 4 to 12 leave the arbiter (R349). -/
theorem cycleBack_arb (hq : u.Quiet) : (cycleBack e u).arb = (backLast e u).arb := by
  have hlast : (backLast e u).Quiet := by rw [State.Quiet, (backLast_quiet hq).2]; exact hq
  obtain ⟨harb, -⟩ := terminate_quiet (e := e) (.inl hlast)
  rw [cycleBack_eq, endCycle_arb, nextAddress_arb, decimalCommit_arb, harb]

/-! The conditions a branch test reads, at the end of the cycle beside after the last evaluation (R204, R205). -/

theorem cycleBack_q_bit (hf : u.DefaultFields) {i : Nat} (h : i ≠ 6 ∨ e.xop ≠ .qb) :
    (cycleBack e u).regs.q.bit i = (backLast e u).regs.q.bit i := by
  by_cases hx : e.xop = .qb
  · have hqb : (backLast e u).cfg.qLayout.qb = 6 := by rw [backLast_cfg, hf]; rfl
    have hdec : (decimalCommit e.aop (terminate e (backLast e u))).regs.q = (terminate e (backLast e u)).regs.q :=
      decimalCommit_reg (n := .Q) (.inr (ne_accOf (by decide) (by decide))) _
    have hend : (cycleBack e u).regs.q.bit i = (terminate e (backLast e u)).regs.q.bit i := by
      rw [cycleBack_eq, endCycle_regs, nextAddress_regs, ← hdec]; rfl
    rw [hend, terminate_q, if_pos hx, hqb]
    refine (getLsbD_setBit 6 _ (backLast e u).regs.q.val i).trans (if_neg fun hc => ?_)
    exact h.elim (· hc.1) (· hx)
  · exact cycleBack_bit (n := .Q) (.inr hx) (.inr (by decide)) i

theorem cycleBack_acc_bit (hw : u.DefaultWidths) : (cycleBack e u).acc.bit 0 = (backLast e u).acc.bit 0 := by
  have hterm : (terminate e (backLast e u)).acc = (backLast e u).acc := by
    obtain ⟨-, -, haq⟩ := accOf_plain (backLast e u).ab
    rw [State.acc_reg, State.acc_reg, terminate_ab, terminate_reg (.inl haq)]
  obtain ⟨hwidth, -⟩ := State.DefaultWidths.words (s := backLast e u) (backLast_widths.trans hw)
  have hend : ∀ v : State, (endCycle (nextAddress e v)).acc.bit 0 = v.acc.bit 0 := fun v => by
    rw [State.acc_reg, State.acc_reg, endCycle_regs, nextAddress_regs, Regs.release_reg, BitReg.release_bit]; rfl
  rw [cycleBack_eq, hend, decimalCommit_acc_bit (by rw [hterm, hwidth]; decide), hterm]

/-- Every condition but `BC`, `DC`, and `Q[6]` under X_QB, tests at the end of the cycle as the terminating pass found it. -/
theorem cycleBack_qual (hq : u.Quiet) (hdef : u.DefaultTests) (hfields : u.DefaultFields) (hw : u.DefaultWidths) {n : BitVec 4}
    (h9 : n ≠ 9) (h10 : n ≠ 10) (h7 : ¬ (n = 7 ∧ e.xop = .qb)) : (cycleBack e u).qual n = (backLast e u).qual n := by
  have hqb : (cycleBack e u).cfg.qLayout.qb = 6 ∧ (backLast e u).cfg.qLayout.qb = 6 := by
    rw [cycleBack_cfg, backLast_cfg, hfields]; exact ⟨rfl, rfl⟩
  refine State.qual_congr_of_default (by simpa [State.DefaultTests] using hdef) (by simpa [State.DefaultTests] using hdef) h9 h10
    (fun hn => ?_) (fun i hi => cycleBack_q_bit hfields (.inl hi)) ?_ (cycleBack_acc_bit hw) cycleBack_ab (cycleBack_arb hq)
  · rw [State.condition, State.condition, hqb.1, hqb.2]
    exact cycleBack_q_bit hfields (.inr fun hx => h7 ⟨hn, hx⟩)
  · exact cycleBack_bit (n := .P) (.inl (by decide)) (.inr (by decide)) 0

/-- The branch where step 3 leaves `Q` off: the selected condition as it stands at the end of the cycle, but for the three the commits may
change, `BC`, `DC` and `Q[6]` under X_QB, which are read as step 3 left them (R205, R207 to R211). -/
theorem cycleBack_branch (hb : e.brq = true) (hq : u.Quiet) (hdef : u.DefaultTests) (hfields : u.DefaultFields) (hw : u.DefaultWidths)
    (hen : u.regs.q.en = false) : (cycleBack e u).csa = u.csa ^^^ nextMask e
      (if u.csa.extractLsb' 4 4 = 9 then u.bc else if u.csa.extractLsb' 4 4 = 10 then u.dc
        else if u.csa.extractLsb' 4 4 = 7 ∧ e.xop = .qb then u.regs.q.bit 6
        else (cycleBack e u).qual (u.csa.extractLsb' 4 4)) := by
  have hlast : (backLast e u).DefaultTests := by simpa [State.DefaultTests] using hdef
  have hsel : (backLast e u).qsel = u.csa.extractLsb' 4 4 := by rw [State.qsel_of_default hlast, backLast_csa]
  rw [cycleBack_csa_of_brq hb hq, hsel]
  congr 2
  by_cases h9 : u.csa.extractLsb' 4 4 = 9
  · rw [if_pos h9, h9, State.qual_of_default hlast]
    exact backLast_bc
  by_cases h10 : u.csa.extractLsb' 4 4 = 10
  · rw [if_neg h9, if_pos h10, h10, State.qual_of_default hlast]
    exact backLast_dc
  by_cases h7 : u.csa.extractLsb' 4 4 = 7 ∧ e.xop = .qb
  · have ⟨hseven, hx⟩ := h7
    have hqb : (backLast e u).cfg.qLayout.qb = 6 := by rw [backLast_cfg, hfields]; rfl
    have htest : (backLast e u).qual 7 = (backLast e u).regs.q.bit 6 := by rw [State.qual_of_default hlast, ← hqb]; rfl
    have hkept : (backLast e u).regs.q = u.regs.q :=
      backLast_reg (n := .Q) hen (by simp [Feeds, xTarget_eq_some, hx, ne_accOf])
    rw [if_neg h9, if_neg h10, if_pos h7, hseven, htest, hkept]
  · rw [if_neg h9, if_neg h10, if_neg h7, cycleBack_qual hq hdef hfields hw h9 h10 h7]

end

/-! ### What is left of the operation (R267, R268, R272) -/

section
variable {h : Hold} {s : State}

theorem ioFinish_arb : (ioFinish h s).arb = { s.arb with rdy := s.arb.rdy && !h.clf } := by
  rw [ioFinish, ioEnd_arb]
  cases h.post <;> simp

/-- A register is on after the operation where it was on before (D28). -/
theorem ioFinish_en (n : RegName) : ((ioFinish h s).regs.reg n).en = (s.regs.reg n).en := by
  rw [ioFinish, ioEnd_regs]
  cases h.post with
  | none => rfl
  | load8 => exact latchAndShift_en 8 n
  | load16 => exact latchAndShift_en 16 n

end

/-! ### The rest of the operation and of the cycle (R275) -/

/-- The state after the rest of the operation, the hold lifted. -/
def afterHandshake (h : Hold) (s : State) : State :=
  ioFinish h { s with hold := none }

section
variable {h : Hold} {s : State}

/-- The rest of the cycle is that of the word in progress. -/
theorem resume_eq {e : Entry} (he : s.cyc.ir = some e) : resume h s = cycleBack e (afterHandshake h s) := by
  have hir : (ioFinish h { s with hold := none }).cyc.ir = some e := (ioFinish_ir h _).trans he
  unfold resume
  dsimp only
  rw [hir]
  rfl
theorem resume_eq_of_no_word (he : s.cyc.ir = none) : resume h s = endCycle (afterHandshake h s) := by
  have hir : (ioFinish h { s with hold := none }).cyc.ir = none := (ioFinish_ir h _).trans he
  unfold resume
  dsimp only
  rw [hir]
  rfl

/-- The two ways a finished handshake can end: with the cycle of the word in progress, or, without one, with step 12 alone. -/
theorem resume_cases (h : Hold) (s : State) :
    (∃ e, resume h s = cycleBack e (afterHandshake h s)) ∨ resume h s = endCycle (afterHandshake h s) := by
  cases he : s.cyc.ir with
  | some e => exact .inl ⟨e, resume_eq he⟩
  | none => exact .inr (resume_eq_of_no_word he)

theorem afterHandshake_hold : (afterHandshake h s).hold = none := ioFinish_hold h _

theorem resume_atRest : (resume h s).AtRest := by
  obtain ⟨e, hend⟩ | hend := resume_cases h s <;> rw [hend]
  · exact ⟨(cycleBack_hold e _).trans afterHandshake_hold, cycleBack_idle e _⟩
  · exact ⟨afterHandshake_hold, endCycle_idle _⟩

theorem resume_bsy (hb : s.arb.bsy = false) : (resume h s).arb.bsy = false := by
  have hafter : (afterHandshake h s).arb.bsy = false := by rw [afterHandshake, ioFinish_arb]; exact hb
  obtain ⟨e, hend⟩ | hend := resume_cases h s <;> rw [hend]
  · refine Bool.eq_false_iff.2 fun hbsy => ?_
    exact Bool.false_ne_true (hafter.symm.trans ((cycleBack_keepsLatches e _).bsy hbsy))
  · exact hafter

/-- The trailing clear-flag is all that touches `RDY`, where nothing more is scheduled (R272). -/
theorem resume_rdy (hq : s.Quiet) : (resume h s).arb.rdy = (s.arb.rdy && !h.clf) := by
  have hafter : (afterHandshake h s).arb.rdy = (s.arb.rdy && !h.clf) := by rw [afterHandshake, ioFinish_arb]
  have hquiet : (afterHandshake h s).Quiet := by rw [State.Quiet, afterHandshake, ioFinish_ext]; exact hq
  obtain ⟨e, hend⟩ | hend := resume_cases h s <;> rw [hend]
  · rw [cycleBack_arb hquiet, (backLast_quiet hquiet).1, hafter]
  · exact hafter

/-- The rest of the cycle leaves `IOR` as the operation left it. -/
theorem resume_ior (hen : s.regs.ior.en = false) : (resume h s).regs.ior.nat = (afterHandshake h s).regs.ior.nat := by
  have hoff : (afterHandshake h s).regs.ior.en = false := (ioFinish_en .IOR).trans hen
  obtain ⟨e, hend⟩ | hend := resume_cases h s <;> rw [hend]
  · exact cycleBack_ior hoff
  · rfl

/-- What the accumulator takes is left to it by a word that neither drives nor feeds it. -/
theorem resume_acc {e : Entry} (he : s.cyc.ir = some e) (hp : s.HeldPlainly) (hx : e.xop ≠ .acc) (hd : e.xop ≠ .dec) (hc : e.xop ≠ .cab) :
    (resume h s).acc.nat = (afterHandshake h s).acc.nat := by
  obtain ⟨-, hacc, -, hdm⟩ := hp
  have hen : (afterHandshake h s).acc.en = false := by
    rw [State.acc_reg] at hacc
    rw [State.acc_reg, afterHandshake, ioFinish_en, ioFinish_ab]
    exact hacc
  rw [resume_eq he]
  exact cycleBack_acc hen ((ioFinish_dm h _).trans hdm) hx hd hc

/-! The words of the operation, by what it had left to do. -/

theorem afterHandshake_of_none (hp : h.post = .none) : (afterHandshake h s).regs = s.regs := by
  rw [afterHandshake, ioFinish, ioEnd_regs, hp]
theorem afterHandshake_of_load16 (hw : s.DefaultWidths) (hp : h.post = .load16) (hb : s.regs.iorByte = false) :
    (afterHandshake h s).regs.ior.word = s.iobValue ∧ (afterHandshake h s).acc.word = s.iobValue := by
  rw [afterHandshake, ioFinish, ioEnd_regs, ioEnd_acc, hp]
  exact latchAndShift16_words (s := { s with hold := none }) hw hb
theorem afterHandshake_of_load8 (hw : s.DefaultWidths) (hp : h.post = .load8) (hb : s.regs.iorByte = true) :
    (afterHandshake h s).regs.ior.word = s.iobValue ∧
      (afterHandshake h s).acc.word = s.iobValue.extractLsb' 0 8 ++ s.acc.word.extractLsb' 8 8 := by
  rw [afterHandshake, ioFinish, ioEnd_regs, ioEnd_acc, hp]
  exact latchAndShift8_words (s := { s with hold := none }) hw hb

theorem resume_ior_of_none (hen : s.regs.ior.en = false) (hp : h.post = .none) : (resume h s).regs.ior.nat = s.regs.ior.nat := by
  rw [resume_ior hen, afterHandshake_of_none hp]
theorem resume_ior_of_load16 (hen : s.regs.ior.en = false) (hw : s.DefaultWidths) (hp : h.post = .load16)
    (hb : s.regs.iorByte = false) : (resume h s).regs.ior.word = s.iobValue := by
  obtain ⟨hior, -⟩ := afterHandshake_of_load16 hw hp hb
  rw [BitReg.word_of_nat (resume_ior hen), hior]
theorem resume_ior_of_load8 (hen : s.regs.ior.en = false) (hw : s.DefaultWidths) (hp : h.post = .load8)
    (hb : s.regs.iorByte = true) : (resume h s).regs.ior.word = s.iobValue := by
  obtain ⟨hior, -⟩ := afterHandshake_of_load8 hw hp hb
  rw [BitReg.word_of_nat (resume_ior hen), hior]

/-- The accumulator of a held word that is plain: as it was, or as the load filled it (R267, R268). -/
theorem resume_acc_words {e : Entry} (he : s.cyc.ir = some e) (hplain : s.HeldPlainly) (hx : e.xop ≠ .acc) (hd : e.xop ≠ .dec)
    (hc : e.xop ≠ .cab) :
    (h.post = .none → (resume h s).acc.nat = s.acc.nat) ∧
    (s.DefaultWidths → h.post = .load16 → s.regs.iorByte = false → (resume h s).acc.word = s.iobValue) ∧
    (s.DefaultWidths → h.post = .load8 → s.regs.iorByte = true →
      (resume h s).acc.word = s.iobValue.extractLsb' 0 8 ++ s.acc.word.extractLsb' 8 8) := by
  have hacc : (resume h s).acc.nat = (afterHandshake h s).acc.nat := resume_acc he hplain hx hd hc
  refine ⟨fun hp => ?_, fun hw hp hb => ?_, fun hw hp hb => ?_⟩
  · have hab : (afterHandshake h s).ab = s.ab := ioFinish_ab h _
    rw [hacc, State.acc, hab, afterHandshake_of_none hp]; rfl
  · obtain ⟨-, hword⟩ := afterHandshake_of_load16 hw hp hb
    rw [BitReg.word_of_nat hacc, hword]
  · obtain ⟨-, hword⟩ := afterHandshake_of_load8 hw hp hb
    rw [BitReg.word_of_nat hacc, hword]

theorem resume_csa {e : Entry} (he : s.cyc.ir = some e) (hb : e.brq = false) : (resume h s).csa = s.csa ^^^ (e.pm ++ e.sm) := by
  have hcsa : (afterHandshake h s).csa = s.csa := ioFinish_csa h _
  rw [resume_eq he, cycleBack_csa_brt, terminate_brt hb, hcsa]
  rfl

/-- The branch test after the operation (R205, R211). -/
theorem resume_branch {e : Entry} (he : s.cyc.ir = some e) (hq : s.Quiet) (hp : s.HeldPlainly) (hdef : s.DefaultTests)
    (hfields : s.DefaultFields) (hw : s.DefaultWidths) (hb : e.brq = true) : (resume h s).csa = s.csa ^^^ nextMask e
      (if s.csa.extractLsb' 4 4 = 9 then s.bc else if s.csa.extractLsb' 4 4 = 10 then s.dc
        else if s.csa.extractLsb' 4 4 = 7 ∧ e.xop = .qb then s.regs.q.bit 6 else (resume h s).qual (s.csa.extractLsb' 4 4)) := by
  obtain ⟨-, -, hqen, -⟩ := hp
  have hcsa : (afterHandshake h s).csa = s.csa := ioFinish_csa h _
  have hbc : (afterHandshake h s).bc = s.bc := ioFinish_bc h _
  have hdc : (afterHandshake h s).dc = s.dc := ioFinish_dc h _
  have hcfg : (afterHandshake h s).cfg = s.cfg := ioFinish_cfg h _
  have hregs : (afterHandshake h s).regs.q = s.regs.q := ioFinish_reg_outside (n := .Q) (by decide) h _
  have hwidths : (afterHandshake h s).DefaultWidths := (ioFinish_widths h _).trans hw
  have hquiet : (afterHandshake h s).Quiet := by rw [State.Quiet, afterHandshake, ioFinish_ext]; exact hq
  have hbranch := cycleBack_branch (u := afterHandshake h s) hb hquiet (by rw [State.DefaultTests, hcfg]; exact hdef)
    (by rw [State.DefaultFields, hcfg]; exact hfields) hwidths (by rw [hregs]; exact hqen)
  rwa [hcsa, hbc, hdc, hregs, ← resume_eq he] at hbranch

end

/-- Settles O53: the interleaving point writes the arbiter and the schedule alone; then the engine waits, or `resume` ends its cycle. -/
theorem heldEngineWaitsForBusy : Obligations.HeldEngineWaitsForBusy := by
  unfold Obligations.HeldEngineWaitsForBusy
  intro s h hs
  have hstep : step s = .next (heldStep h s) := by rw [step, hs]
  refine ⟨heldStep h s, hstep, fun hb => ?_, fun hstuck => ?_, fun hb => ?_⟩
  · rw [heldStep, if_pos hb]
    simp [SameEngine, SameConfiguration, hs]
  · exact Host.Outcome.next.inj (hstep.symm.trans (step_of_stuck hstuck))
  have hresume : heldStep h s = resume h (interleave false s) := by rw [heldStep, if_neg (by rw [hb]; decide)]
  rw [hresume]
  obtain ⟨arb, ext, hpoint⟩ : ∃ arb ext, interleave false s = { s with arb := arb, ext := ext } := ⟨_, _, interleave_inside s⟩
  rw [hpoint] at hb ⊢
  exact ⟨resume_atRest, resume_bsy hb, fun hen hp => resume_ior_of_none hen hp, fun hen hw hp hbyte => resume_ior_of_load16 hen hw hp hbyte,
    fun hen hw hp hbyte => resume_ior_of_load8 hen hw hp hbyte, resume_rdy,
    fun e he => ⟨resume_csa he, fun hplain hx hd hc => resume_acc_words he hplain hx hd hc, resume_branch he⟩⟩

end Sys2Proof.Machine
end

section
/-! SUPPORT. Proofs of the family of spec/60_exceptions.md: every row answers a next state (R300, R301), and none writes what the other
agents raise and register: the strobes, the hard stop, the directory (R304, R305). -/

namespace Sys2Proof.Machine

/-! ### Totality (R300, R301) -/

/-- No row faults or is refused: `exec` answers the state `after` reads from it. -/
theorem exec_eq_after (i : Instr) (s : State) : exec i s = .next (after i s) := by
  cases i <;> rfl

/-- Settles O13: the wait of a held engine is a next state, and so is what every instruction leaves. -/
theorem engineHasNoFailureStates : Obligations.EngineHasNoFailureStates := by
  unfold Obligations.EngineHasNoFailureStates
  refine ⟨fun s => ?_, fun i s => ⟨_, exec_eq_after i s⟩⟩
  unfold step
  split
  · exact ⟨_, rfl⟩
  · exact ⟨_, exec_eq_after _ _⟩

/-! ### The rows by kind (R140, R172) -/

/-- A row is that of an operation or flag of a control word, the trailing clear-flag, or a word of its own. -/
theorem row_cases (i : Instr) :
    (∃ op, i = sRow op) ∨ (∃ op, i = rRow op) ∨ (∃ op, i = xRow op) ∨ (∃ op, i = aRow op) ∨
      i ∈ [.ttt, .ttm, .xtr, .brq, .iqn, .ioClf] ∨ i.part = none := by
  cases i with
  | sZero => exact .inl ⟨.zero, rfl⟩
  | sM => exact .inl ⟨.m, rfl⟩
  | sT => exact .inl ⟨.t, rfl⟩
  | sAcc => exact .inl ⟨.acc, rfl⟩
  | rZero => exact .inr (.inl ⟨.zero, rfl⟩)
  | rUnit => exact .inr (.inl ⟨.unit, rfl⟩)
  | rUnitx => exact .inr (.inl ⟨.unitx, rfl⟩)
  | rP => exact .inr (.inl ⟨.p, rfl⟩)
  | rIos => exact .inr (.inl ⟨.ios, rfl⟩)
  | rTre => exact .inr (.inl ⟨.tre, rfl⟩)
  | rE => exact .inr (.inl ⟨.e, rfl⟩)
  | rQ => exact .inr (.inl ⟨.q, rfl⟩)
  | rRdm => exact .inr (.inl ⟨.rdm, rfl⟩)
  | rWtm => exact .inr (.inl ⟨.wtm, rfl⟩)
  | rAcc => exact .inr (.inl ⟨.acc, rfl⟩)
  | xNone => exact .inr (.inr (.inl ⟨.none, rfl⟩))
  | xP => exact .inr (.inr (.inl ⟨.p, rfl⟩))
  | xQ => exact .inr (.inr (.inl ⟨.q, rfl⟩))
  | xAcc => exact .inr (.inr (.inl ⟨.acc, rfl⟩))
  | xE => exact .inr (.inr (.inl ⟨.e, rfl⟩))
  | xQb => exact .inr (.inr (.inl ⟨.qb, rfl⟩))
  | xDec => exact .inr (.inr (.inl ⟨.dec, rfl⟩))
  | xCab => exact .inr (.inr (.inl ⟨.cab, rfl⟩))
  | aZero => exact .inr (.inr (.inr (.inl ⟨.zero, rfl⟩)))
  | aAnd => exact .inr (.inr (.inr (.inl ⟨.and, rfl⟩)))
  | aIor => exact .inr (.inr (.inr (.inl ⟨.ior, rfl⟩)))
  | aXor => exact .inr (.inr (.inr (.inl ⟨.xor, rfl⟩)))
  | aAdd => exact .inr (.inr (.inr (.inl ⟨.add, rfl⟩)))
  | aSub => exact .inr (.inr (.inr (.inl ⟨.sub, rfl⟩)))
  | aIorc => exact .inr (.inr (.inr (.inl ⟨.iorc, rfl⟩)))
  | aIors => exact .inr (.inr (.inr (.inl ⟨.iors, rfl⟩)))
  | ttt | ttm | xtr | brq | iqn | ioClf => exact .inr (.inr (.inr (.inr (.inl (by decide)))))
  | _ => exact .inr (.inr (.inr (.inr (.inr rfl))))

/-- The row X_QB runs the special case, the others what step 5 runs; none reaches the arbiter (R165, R207). -/
theorem after_xRow_arb (op : XOp) (s : State) : (after (xRow op) s).arb = s.arb := by
  by_cases h : op = .qb
  · rw [h]; exact specialCase_arb .qb s
  · rw [← runX_arb op s, ← afterIf_xRow, afterIf, if_pos (bne_iff_ne.2 h)]

theorem after_toInstr (i : IoWord) (s : State) : after i.toInstr s = dispatchIo i s := by
  rw [after, exec_toInstr]

/-! ### What the engine does not write in the arbiter (R304, R305) -/

/-- The strobe vector, the hard stop and the directory stay: the fields of the arbiter that other agents alone write. -/
structure KeepsStrobes (s t : State) : Prop where
  stb : t.arb.stb = s.arb.stb
  stp : t.arb.stp = s.arb.stp
  directory : t.arb.directory = s.arb.directory

theorem KeepsStrobes.of_arb {s t : State} (h : t.arb = s.arb) : KeepsStrobes s t :=
  ⟨by rw [h], by rw [h], by rw [h]⟩

theorem KeepsStrobes.trans {s t u : State} (h : KeepsStrobes s t) (k : KeepsStrobes t u) : KeepsStrobes s u :=
  ⟨k.stb.trans h.stb, k.stp.trans h.stp, k.directory.trans h.directory⟩

/-- The trailing clear-flag writes `RDY` alone (R272). -/
theorem ioEnd_keepsStrobes (hc : Bool) (s : State) : KeepsStrobes s (ioEnd hc s) := by
  constructor <;> rw [ioEnd_arb]

theorem ioFinish_keepsStrobes (h : Hold) (s : State) : KeepsStrobes s (ioFinish h s) := by
  constructor <;> rw [ioFinish_arb]

/-- The handshake writes `BSY` alone (R275). -/
theorem setCEO_keepsStrobes (dir : Dir) (s : State) : KeepsStrobes s (setCEO dir s) := by
  constructor <;> rw [setCEO_arb]

theorem handshake_keepsStrobes (dir : Dir) (h : Hold) (s : State) : KeepsStrobes s (handshake dir h s) := by
  have hceo := setCEO_keepsStrobes dir s
  unfold handshake
  dsimp only
  split
  · exact hceo.trans (.of_arb rfl)
  · exact hceo.trans (ioFinish_keepsStrobes h _)

theorem offer_keepsStrobes (v : Word) (hc : Bool) (s : State) : KeepsStrobes s (offer v hc s) := by
  have hbus : KeepsStrobes s { s with buses := { s.buses with iob := some v } } := .of_arb rfl
  unfold offer
  dsimp only
  split
  · exact hbus.trans (ioEnd_keepsStrobes hc _)
  all_goals exact hbus.trans (handshake_keepsStrobes _ _ _)

/-- The entry block writes `SSF` and `SEL` where nothing is scheduled after it (R259). -/
theorem ioBegin_keepsStrobes {s : State} (hq : s.Quiet) (sc : BitVec 5) : KeepsStrobes s (ioBegin sc s) := by
  constructor <;> rw [ioBegin_quiet hq, leaveAcknowledged_arb]

/-- A dispatched operation writes its latch, then `BSY` or `RDY` (R261 to R273). -/
theorem dispatchIo_keepsStrobes (i : IoWord) {s : State} (hq : s.Quiet) : KeepsStrobes s (dispatchIo i s) := by
  refine (ioBegin_keepsStrobes hq i.sc).trans ?_
  unfold dispatchIo
  cases i.op with
  | stf | sfc | clc | sfs | eow =>
    refine KeepsStrobes.trans ?_ (ioEnd_keepsStrobes i.hc _)
    exact ⟨rfl, rfl, rfl⟩
  | nopLow c | nopHigh c => exact ioEnd_keepsStrobes i.hc _
  | stc | li8 | li16 =>
    refine KeepsStrobes.trans ?_ (handshake_keepsStrobes _ ⟨_, i.hc⟩ _)
    exact ⟨rfl, rfl, rfl⟩
  | ot8 | ot16 =>
    refine KeepsStrobes.trans ?_ (offer_keepsStrobes _ i.hc _)
    exact .of_arb (transferOut_arb _ _)

/-- The acknowledge reads the strobes and writes `SSF`, `INH` and `SEL` (R257). -/
theorem runIoAck_keepsStrobes (s : State) : KeepsStrobes s (runIoAck s) := by
  unfold runIoAck
  split
  · exact ⟨rfl, rfl, rfl⟩
  · exact .of_arb rfl

theorem arbiterExec_keepsStrobes {s : State} (hq : s.Quiet) : KeepsStrobes s (arbiterExec s) := by
  unfold arbiterExec
  split
  · exact dispatchIo_keepsStrobes _ hq
  · exact runIoAck_keepsStrobes s

theorem runR_keepsStrobes (op : ROp) {s : State} (hq : s.Quiet) : KeepsStrobes s (runR op s) := by
  by_cases hop : op = .ios
  · rw [hop]; exact arbiterExec_keepsStrobes hq
  · obtain ⟨harb, -⟩ := runR_arb hop s
    exact .of_arb harb

/-- A control word reaches the arbiter at step 3 alone, held there or not (R193, R349). -/
theorem runMi_keepsStrobes (e : Entry) {s : State} (hq : s.Quiet) : KeepsStrobes s (runMi e s) := by
  have hfront : KeepsStrobes s (cycleFront e s) :=
    KeepsStrobes.trans (.of_arb beforeR_arb) (runR_keepsStrobes e.rop (beforeR_quiet (e := e) hq))
  have hrest : (cycleFront e s).Quiet := cycleFront_quiet hq
  obtain ⟨hlast, -⟩ := backLast_quiet (e := e) hrest
  unfold runMi
  dsimp only
  split
  · exact hfront
  · exact hfront.trans (.of_arb ((cycleBack_arb hrest).trans hlast))

/-- Every row, where nothing is scheduled: the rows of the bus operations leave the whole arbiter, the tests only sample it, the I/O
operations write its other fields. -/
theorem after_keepsStrobes (i : Instr) {s : State} (hq : s.Quiet) : KeepsStrobes s (after i s) := by
  rcases row_cases i with ⟨op, rfl⟩ | ⟨op, rfl⟩ | ⟨op, rfl⟩ | ⟨op, rfl⟩ | hflag | hword
  · rw [after_sRow]; exact .of_arb (runS_arb op s)
  · rw [after_rRow]; exact runR_keepsStrobes op hq
  · exact .of_arb (after_xRow_arb op s)
  · rw [after_aRow]; exact .of_arb (runA_arb op s)
  · simp only [List.mem_cons, List.not_mem_nil, or_false] at hflag
    obtain ⟨hbrq, -⟩ := runBrq_quiet_arb hq
    obtain ⟨hiqn, -⟩ := runIqn_quiet_arb hq
    rcases hflag with rfl | rfl | rfl | rfl | rfl | rfl
    · exact .of_arb (runTtt_arb s)
    · exact .of_arb (runTtm_arb s)
    · exact .of_arb (runXtr_arb s)
    · exact .of_arb hbrq
    · exact .of_arb hiqn
    · exact ⟨rfl, rfl, rfl⟩
  · obtain ⟨e, rfl⟩ | ⟨x, rfl⟩ | rfl := i.word_cases hword
    · exact runMi_keepsStrobes e hq
    · rw [after_toInstr]; exact dispatchIo_keepsStrobes x hq
    · exact runIoAck_keepsStrobes s

/-- Settles O56: what an instruction answers is `after` of its row. -/
theorem engineNeverWritesStrobes : Obligations.EngineNeverWritesStrobes := by
  unfold Obligations.EngineNeverWritesStrobes
  intro i s t hq ht
  obtain rfl : after i s = t := Host.Outcome.next.inj ((exec_eq_after i s).symm.trans ht)
  obtain ⟨hstb, hstp, hdir⟩ := after_keepsStrobes i hq
  exact ⟨hstb, hstp, hdir⟩

end Sys2Proof.Machine
end

section
/-! SUPPORT. Proofs of the family of spec/70_reset_and_hazards.md: power-on-preset (R330, R311), the loading of the dumps (R332, R333), and
construction, when it answers an error and what it answers else (R331, R334). -/

namespace Sys2Proof.Machine

/-! ### Power-on-preset (R330, R311) -/

@[simp] theorem powerOnPreset_value (s : State) (n : RegName) : (powerOnPreset s).regs.value n = s.regs.value n := by
  cases n <;> rfl

/-- The bindings are released as at the end of a cycle (R129, R330). -/
theorem powerOnPreset_off (s : State) : (powerOnPreset s).regs.Off :=
  (endCycle_idle s).1

/-- A preset that is scheduled alone at the boundary is all that happens there (R311, R349). -/
theorem interleave_preset {s : State} {rest : List (List ExtEvent)} (h : s.ext.env = [.host .preset] :: rest) :
    interleave true s = powerOnPreset { s with ext := { s.ext with env := rest } } := by
  rw [interleave, h]
  rfl

/-- Settles O7: what preset writes and what it keeps; between two cycles it happens before the fetch. -/
theorem presetSetsWhatItNames : Obligations.PresetSetsWhatItNames := by
  unfold Obligations.PresetSetsWhatItNames
  refine fun s => ⟨⟨rfl, rfl, rfl, rfl, rfl, rfl, rfl, rfl, rfl, powerOnPreset_off s, rfl⟩,
    ⟨powerOnPreset_value s, rfl, rfl, rfl, rfl, rfl, rfl, rfl, rfl, rfl, rfl⟩, rfl, fun rest hs henv => ?_⟩
  have hpreset := interleave_preset henv
  refine ⟨?_, hpreset, ?_⟩
  · rw [step, hs]
  · rw [hpreset, powerOnPreset_csa]

/-! ### A dump and its values (R332, R333) -/

/-- Lines have values exactly where each line has its own. -/
theorem lineValues_eq_ok_iff (ls : List (List Char)) (ns : List Nat) :
    lineValues ls = .ok ns ↔ ls.map lineValue = ns.map some := by
  induction ls generalizing ns with
  | nil => cases ns <;> simp [lineValues]
  | cons l ls ih =>
    cases ns with
    | nil => rw [lineValues]; split <;> simp
    | cons n ns =>
      rw [List.map_cons, List.map_cons, List.cons.injEq, ← ih ns, lineValues]
      cases lineValue l <;> cases lineValues ls <;> simp

/-- The only defect of lines as such is a malformed one. -/
theorem lineValues_of_malformed {ls : List (List Char)} {l : List Char} (hl : l ∈ ls) (h : lineValue l = none) :
    lineValues ls = .error .romMalformed := by
  induction ls with
  | nil => cases hl
  | cons k ks ih =>
    rw [lineValues]
    rcases List.mem_cons.1 hl with rfl | hks
    · rw [h]
    · rw [ih hks]
      cases lineValue k <;> rfl

/-- A dump file that is there, has 256 lines, and whose lines have these values. -/
def DumpReads (f : Option RomFile) (ns : List Nat) : Prop :=
  ∃ ls, f = some ls ∧ ls.length = 256 ∧ ls.map lineValue = ns.map some

theorem dumpValues_eq_ok_iff (f : Option RomFile) (ns : List Nat) : dumpValues f = .ok ns ↔ DumpReads f ns := by
  cases f with
  | none => simp [dumpValues, DumpReads]
  | some ls =>
    rw [dumpValues]
    split
    · next hshort => simp [DumpReads, show ls.length ≠ 256 by omega]
    · next hnotShort =>
      split
      · next hlong => simp [DumpReads, show ls.length ≠ 256 by omega]
      · next hnotLong => simp [DumpReads, show ls.length = 256 by omega, lineValues_eq_ok_iff]

/-- The control store's dump also has 28 digits on every line (D40). -/
theorem controlValues_eq_ok_iff (f : Option RomFile) (ns : List Nat) :
    controlValues f = .ok ns ↔ DumpReads f ns ∧ ∀ ls, f = some ls → ∀ l ∈ ls, l.length = 28 := by
  rw [← dumpValues_eq_ok_iff]
  cases f with
  | none => simp [controlValues, dumpValues]
  | some ls =>
    cases h : dumpValues (some ls) with
    | error e => simp [controlValues, h]
    | ok ms =>
      simp only [controlValues, h, List.all_eq_true, beq_iff_eq]
      split
      · next hall => simpa using fun _ => hall
      · next hnot => simpa using fun _ => hnot

/-- A defect that every dump shares is the control store's too, by its name. -/
theorem controlValues_of_error {f : Option RomFile} {e : Fault} (h : dumpValues f = .error e) : controlValues f = .error e := by
  unfold controlValues
  rw [h]
  cases f <;> rfl

/-- A dump that reads has neither a defect of its length nor a malformed line. -/
theorem DumpReads.lines {ls : RomFile} {ns : List Nat} (h : DumpReads (some ls) ns) :
    ls.length = 256 ∧ ∀ l ∈ ls, lineValue l ≠ none := by
  obtain ⟨_, ⟨⟩, hlen, hval⟩ := h
  refine ⟨hlen, fun l hl hnone => ?_⟩
  have hmem : none ∈ ns.map some := hval ▸ hnone ▸ List.mem_map_of_mem hl
  simp at hmem

/-- Line by line the values of a dump that reads. -/
theorem DumpReads.line {ls : RomFile} {ns : List Nat} (h : DumpReads (some ls) ns) {i : Nat} (hi : i < 256) :
    ∃ n, ls[i]?.bind lineValue = some n ∧ ns[i]? = some n := by
  obtain ⟨_, ⟨⟩, hlen, hval⟩ := h
  have hline : ls[i]?.map lineValue = ns[i]?.map some := by rw [← List.getElem?_map, hval, List.getElem?_map]
  rw [List.getElem?_eq_getElem (hlen ▸ hi)] at hline ⊢
  cases hn : ns[i]? with
  | none => simp [hn] at hline
  | some n => exact ⟨n, by simpa [hn] using hline, rfl⟩

/-! ### The values in the machine (R332) -/

/-- Value `i` of the list stands `i` addresses above the first. -/
theorem placedWord_numbered (k i : Nat) (ns : List Nat) :
    placedWord (numbered k ns) (k + i) = ns[i]?.map (BitVec.ofNat 28) := by
  induction ns generalizing k i with
  | nil => rfl
  | cons n ns ih =>
    cases i with
    | zero => simp [numbered, placedWord]
    | succ i =>
      rw [numbered, placedWord, if_neg (by omega), List.getElem?_cons_succ, ← ih (k + 1) i]
      congr 1
      omega

/-- Entry `i` of a loaded table is value `i` of its dump (log entry 15). -/
theorem tableAt_tableOf {ns : List Nat} {i : BitVec 8} {n : Nat} (h : ns[i.toNat]? = some n) :
    tableAt (tableOf ns) i = BitVec.ofNat 8 n := by
  simp [tableAt, tableOf, List.getD, h]

/-- So entry `i` of a loaded table is line `i` of its dump. -/
theorem DumpReads.tableEntry {ls : RomFile} {ns : List Nat} (h : DumpReads (some ls) ns) (i : BitVec 8) :
    ∃ n, ls[i.toNat]?.bind lineValue = some n ∧ tableAt (tableOf ns) i = BitVec.ofNat 8 n := by
  obtain ⟨n, hline, hn⟩ := h.line i.isLt
  exact ⟨n, hline, tableAt_tableOf hn⟩

/-- The columns of a source are the operations of its table (R97). -/
theorem opSourceOf_columns (t : OpTable) :
    (∀ c : BitVec 2, (opSourceOf t).s[c.toNat] = some (t.sop c)) ∧ (∀ c : BitVec 3, (opSourceOf t).r[c.toNat] = some (t.rop c)) ∧
    (∀ c : BitVec 3, (opSourceOf t).x[c.toNat] = some (t.xop c)) ∧ ∀ c : BitVec 3, (opSourceOf t).a[c.toNat] = some (t.aop c) := by
  simp [opSourceOf, OpTable.sop, OpTable.rop, OpTable.xop, OpTable.aop]

/-! ### The decimal law (R234, R235) -/

/-- The self-check of an opcode asks the law of every digit pair and carry-in. -/
theorem digitResult_of_decimalCasesHold {alu bcd : Vector (BitVec 8) 256} {op : AOp} {code : BitVec 3}
    (h : decimalCasesHold alu bcd op code = true) {a b : Nat} (ha : a ≤ 9) (hb : b ≤ 9) (c : Bool) :
    digitResult alu bcd op code (BitVec.ofNat 4 a) (BitVec.ofNat 4 b) c =
      (BitVec.ofNat 4 (decimalSum op a b c % 10), decide (10 ≤ decimalSum op a b c)) := by
  simp only [decimalCasesHold, List.all_eq_true, List.mem_range, Bool.and_eq_true] at h
  obtain ⟨hclear, hset⟩ := h a (Nat.lt_succ_of_le ha) b (Nat.lt_succ_of_le hb)
  cases c with
  | false => exact beq_iff_eq.1 hclear
  | true => exact beq_iff_eq.1 hset

/-- The self-check of a pair of tables covers each opcode of the two A-ops (log entry 27). -/
theorem decimalCasesHold_of_decimalCheck {t : OpTable} {alu bcd : Vector (BitVec 8) 256} (h : decimalCheck t alu bcd = true)
    {code : BitVec 3} (hop : t.aop code = .add ∨ t.aop code = .sub) : decimalCasesHold alu bcd (t.aop code) code = true := by
  rw [decimalCheck, Bool.and_eq_true, List.all_eq_true, List.all_eq_true] at h
  obtain ⟨hadd, hsub⟩ := h
  rcases hop with hop | hop
  · rw [hop]; exact hadd code ((mem_opcodesOf_iff _ _ _).2 hop)
  · rw [hop]; exact hsub code ((mem_opcodesOf_iff _ _ _).2 hop)

/-! ### Construction (R331, R333, R334) -/

/-- A machine that is constructed was assembled from dumps that read, and its tables keep the decimal law. -/
theorem loaded_of_construct {f : RomFiles} {ops : OpSource} {devices : List DirEntry} {init t : State}
    (h : construct f ops devices init = .ok t) :
    ∃ cs alu bcd o, (DumpReads f.cs cs ∧ ∀ ls, f.cs = some ls → ∀ l ∈ ls, l.length = 28) ∧ DumpReads f.alu alu ∧
      DumpReads f.bcd bcd ∧ ops = opSourceOf o ∧ decimalCheck o (tableOf alu) (tableOf bcd) = true ∧
      t = assembled o cs alu bcd devices init := by
  obtain ⟨cs, alu, bcd, o, hcs, halu, hbcd, hops, hchecks, ht⟩ := (construct_eq_ok_iff f ops devices init t).1 h
  obtain ⟨-, -, hdec⟩ := (checkTables_eq_ok_iff o _ _).1 hchecks
  exact ⟨cs, alu, bcd, o, (controlValues_eq_ok_iff _ _).1 hcs, (dumpValues_eq_ok_iff _ _).1 halu, (dumpValues_eq_ok_iff _ _).1 hbcd,
    (OpSource.table_eq_ok_iff ops o).1 hops, hdec, ht⟩

/-- The control store's dump is read first: a defect of it is the answer. -/
theorem construct_of_controlDump_error {f : RomFiles} {e : Fault} (h : dumpValues f.cs = .error e) (ops : OpSource)
    (devices : List DirEntry) (init : State) : construct f ops devices init = .error e := by
  rw [construct, controlValues_of_error h]
  rfl

/-- A construction that answers no machine answers an error. -/
theorem exists_error_of_not_constructed {f : RomFiles} {ops : OpSource} {devices : List DirEntry} {init : State}
    (h : ∀ t, construct f ops devices init ≠ .ok t) : ∃ e, construct f ops devices init = .error e := by
  cases hc : construct f ops devices init with
  | error e => exact ⟨e, rfl⟩
  | ok t => exact absurd hc (h t)

/-- Settles O8: the named errors are those of the control store's dump, the others what a machine that is built rules out. -/
theorem constructionRefusesDefects : Obligations.ConstructionRefusesDefects := by
  unfold Obligations.ConstructionRefusesDefects
  refine fun f ops devices init => ⟨fun hcs => ?missing, fun ls hcs hlen => ?short, fun ls hcs hlen => ?long,
    fun ls l hcs hlen hl hval => ?malformed, fun ls l hcs hl hwidth => ?width, fun hnone => ?tableMissing,
    fun ls hls hbad => ?tableDefect, fun t ht code op a b c hcode hop ha hb => ?law⟩
  case missing => exact construct_of_controlDump_error (by rw [hcs, dumpValues]) ops devices init
  case short => exact construct_of_controlDump_error (by rw [hcs, dumpValues, if_pos hlen]) ops devices init
  case long => exact construct_of_controlDump_error (by rw [hcs, dumpValues, if_neg (by omega), if_pos hlen]) ops devices init
  case malformed =>
    refine construct_of_controlDump_error ?_ ops devices init
    rw [hcs, dumpValues, if_neg (by omega), if_neg (by omega), lineValues_of_malformed hl hval]
  case width =>
    refine exists_error_of_not_constructed fun t ht => ?_
    obtain ⟨_, _, _, _, ⟨-, hdigits⟩, -⟩ := loaded_of_construct ht
    exact hwidth (hdigits ls hcs l hl)
  case tableMissing =>
    refine exists_error_of_not_constructed fun t ht => ?_
    obtain ⟨_, _, _, _, -, ⟨_, halu, -⟩, ⟨_, hbcd, -⟩, -⟩ := loaded_of_construct ht
    rcases hnone with hnone | hnone
    · exact absurd (hnone.symm.trans halu) (by simp)
    · exact absurd (hnone.symm.trans hbcd) (by simp)
  case tableDefect =>
    refine exists_error_of_not_constructed fun t ht => ?_
    obtain ⟨_, alu, bcd, _, -, halu, hbcd, -⟩ := loaded_of_construct ht
    have hreads : ∃ ns, DumpReads (some ls) ns := by
      rcases hls with hls | hls
      · exact ⟨alu, hls ▸ halu⟩
      · exact ⟨bcd, hls ▸ hbcd⟩
    obtain ⟨ns, hns⟩ := hreads
    obtain ⟨hlen, hlines⟩ := hns.lines
    rcases hbad with hbad | ⟨l, hl, hnone⟩
    · exact hbad hlen
    · exact hlines l hl hnone
  case law =>
    obtain ⟨_, alu, bcd, o, -, -, -, -, hdec, rfl⟩ := loaded_of_construct ht
    subst hcode
    exact digitResult_of_decimalCasesHold (decimalCasesHold_of_decimalCheck hdec hop) ha hb c

/-- Settles O10: the assembled machine is a preset one, its control store and tables the values of the dumps. -/
theorem constructedMachineIsPreset : Obligations.ConstructedMachineIsPreset := by
  unfold Obligations.ConstructedMachineIsPreset
  intro f ops devices init t ht
  obtain ⟨cs, alu, bcd, o, ⟨hcs, -⟩, halu, hbcd, rfl, -, rfl⟩ := loaded_of_construct ht
  obtain ⟨hs, hr, hx, ha⟩ := opSourceOf_columns o
  refine ⟨rfl, rfl, rfl, rfl, rfl, rfl, rfl, rfl, rfl, ⟨rfl, powerOnPreset_off _, rfl, rfl⟩, rfl, rfl, rfl, rfl, rfl, rfl, rfl, rfl,
    powerOnPreset_value _, rfl, hs, hr, hx, ha, fun ls hls a hlt => ?_, fun ls hls => ?_, fun ls hls => ?_⟩
  · rw [hls] at hcs
    obtain ⟨hlen, -⟩ := hcs.lines
    obtain ⟨n, hline, hn⟩ := hcs.line (hlen ▸ hlt)
    refine ⟨n, by simpa [hlt] using hline, ?_⟩
    calc placedWord (numbered 0 cs) a
        = placedWord (numbered 0 cs) (0 + a) := by rw [Nat.zero_add]
      _ = cs[a]?.map (BitVec.ofNat 28) := placedWord_numbered 0 a cs
      _ = some (BitVec.ofNat 28 n) := by rw [hn]; rfl
  · rw [hls] at halu
    exact halu.tableEntry
  · rw [hls] at hbcd
    exact hbcd.tableEntry

end Sys2Proof.Machine
end
